-- ==== Sys2Proof/Word.lean ====
section
/-! DEFINITION. The word types of the core (spec 00_scope.md R5, R9, R11; 30_encoding.md R85).

A byte-string register is held as a bit vector whose most significant byte is byte 0, which is how
R11 draws it and R63 reads it as a number; so the literal `0x66e9…2e#128` is the spec's byte string
`66e9…2e`. Messages, whose length varies, are lists of bytes, first byte first (R9). -/

namespace Sys2Proof

/-- A byte, an integer 0 to 255 (R9). -/
abbrev Byte := BitVec 8

/-- A key-schedule word: a 4-byte string (R125); also the 32-bit counter field (R181). -/
abbrev Word := BitVec 32

/-- A block: 16 bytes, byte 0 the most significant (R5, R11). -/
abbrev Block := BitVec 128

/-- A 96-bit initialisation vector: 12 bytes, byte 0 the most significant (R5, R24). -/
abbrev IvWord := BitVec 96

/-- The two length registers and the buffer addresses of a transaction are 64-bit unsigned (R25, R60). -/
abbrev Length := BitVec 64

/-- The round-key file: 11 round keys of 16 bytes (R33). -/
abbrev Schedule := Vector Block 11

end Sys2Proof
end

