-- ==== Sys2Proof/Syntax.lean ====
section
/-! DEFINITION. The commands of the core, one constructor per row of the opcode table
(spec 30_encoding.md R81, R82), and the names of the host's registers and buffers (R85, R60). -/

namespace Sys2Proof

/-- A command: what a byte written to `CMD` stands for. Every operand but `RKRD`'s round index is
implicit (R81). -/
inductive Instr
  /-- Expand the key into the round-key file (R127). -/
  | keyexp
  /-- Encrypt the block in `OPA` under the round-key file (R146). -/
  | aesenc
  /-- Multiply `OPA` by `OPB` in GF(2^128) (R162). -/
  | gfmul
  /-- Fold `IBUF[0 .. DLEN-1]` under the hash subkey in `OPB` (R172). -/
  | ghash
  /-- Counter mode from `IBUF` to `OBUF` (R185). -/
  | ctrxor
  /-- One whole GCM encryption (R195). -/
  | gcmenc
  /-- One whole GCM decryption with its tag check (R196). -/
  | gcmdec
  /-- Every register and flag to its reset value (R106). -/
  | clr
  /-- Copy round key `n` to `RES`; `n` is the low nibble of the byte, legal from 0 to 10 (R128, R81). -/
  | rkrd (n : BitVec 4)
  deriving DecidableEq, Repr

/-- The three buffers, each its own address space (R60). -/
inductive Space
  | abuf | ibuf | obuf
  deriving DecidableEq, Repr

/-- The eleven registers that have a register number (R85). -/
inductive Reg
  | cmd | status | err | key | iv | alen | dlen | tag | opa | opb | res
  deriving DecidableEq, Repr

end Sys2Proof
end

