-- ==== Sys2Proof/Config.lean ====
section
/-! DEFINITION. What the spec leaves open: the free values, which have no body, so that no proof can
see what they are; and the buffer capacities that `State.reset` starts with. -/

namespace Sys2Proof.Config

/-- The content after reset of a buffer byte that nothing has written since: "every byte holds some
value, fixed until written, that the spec does not give" (10_state.md R38, D21). The first argument
counts the resets, since each reset leaves the buffers unspecified anew (R230); then the buffer and
the address. Free value, assumption log 4. -/
opaque resetByte : Nat → Space → Nat → Byte

/-- What the working register `H` holds after the command that used it has ended (R34, R197). Its
argument, like that of the three below, is `State.releases`. Free value, assumption log 7. -/
opaque freeH : Nat → Block

/-- What the working register `Y` holds after the command that used it has ended (R34, R197). -/
opaque freeY : Nat → Block

/-- What the working register `CTR` holds after the command that used it has ended (R34, R197). -/
opaque freeCtr : Nat → Word

/-- What the working register `EJ0` holds after the command that used it has ended (R34, R197). -/
opaque freeEj0 : Nat → Block

/-- `ABUF_SIZE` in `State.reset` (DESIGN CHOICE, unsafe, assumption log 3: the spec leaves the capacity
a parameter, R6). Every claim over all states holds for every capacity, since the capacity is read
from the state. -/
def abufSizeAtReset : Nat := 64

/-- `DBUF_SIZE` in `State.reset` (DESIGN CHOICE, unsafe, assumption log 3: the spec leaves the capacity
a parameter, R6). -/
def dbufSizeAtReset : Nat := 64

end Sys2Proof.Config
end

