-- ==== Sys2Proof/WellFormed.lean ====
section
/-! DEFINITION. Which commands have an encoding (spec 30_encoding.md R81, R82). -/

namespace Sys2Proof

/-- The round index of `RKRD` is one of the 11 round keys: `n <= 10` (R81, R82, condition column). -/
def Instr.roundIndexOk : Instr → Bool
  | .rkrd n => n.toNat ≤ 10
  | .keyexp | .aesenc | .gfmul | .ghash | .ctrxor | .gcmenc | .gcmdec | .clr => true

/-- A well-formed command: the one condition the opcode table puts on its rows (R82). -/
abbrev Instr.WellFormed (i : Instr) : Prop := i.roundIndexOk = true

end Sys2Proof
end

