-- ==== Sys2Proof/Decode.lean ====
section
/-! DEFINITION. The decoder and encoder of the command byte (spec 30_encoding.md R80 to R84), and the
register and buffer numbers of the host's transactions (R85, R60). -/

namespace Sys2Proof

/-- Why a byte is not a command. -/
inductive DecodeError
  /-- The byte is none of the nineteen legal ones (R84). -/
  | illegal (b : Byte)
  deriving DecidableEq, Repr

/-- `Decode(b)`, line by line as R83 writes it; total on all 256 bytes. -/
def decode (b : Byte) : Except DecodeError Instr :=
  if b = 0x01#8 then .ok .keyexp
  else if b = 0x02#8 then .ok .aesenc
  else if b = 0x03#8 then .ok .gfmul
  else if b = 0x04#8 then .ok .ghash
  else if b = 0x05#8 then .ok .ctrxor
  else if b = 0x06#8 then .ok .gcmenc
  else if b = 0x07#8 then .ok .gcmdec
  else if b = 0x08#8 then .ok .clr
  else if b.toNat / 16 = 1 ∧ b.toNat % 16 ≤ 10 then .ok (.rkrd (BitVec.ofNat 4 (b.toNat % 16)))
  else .error (.illegal b)

/-- `Encode`: the one byte that decodes to the command (R82, R83). Format N puts the round index into
the low nibble under the high nibble `0001` (R80). -/
def encode : Instr → Byte
  | .keyexp => 0x01#8
  | .aesenc => 0x02#8
  | .gfmul => 0x03#8
  | .ghash => 0x04#8
  | .ctrxor => 0x05#8
  | .gcmenc => 0x06#8
  | .gcmdec => 0x07#8
  | .clr => 0x08#8
  | .rkrd n => 0x1#4 ++ n

/-- The decoder on an opcode-table word: a command is the one byte at bits 7 to 0 (R80); bits at and
above `nbits` are zero. -/
def decodeTableWord (nbits w : Nat) : Option Instr :=
  (decode (BitVec.ofNat 8 (w % 2 ^ nbits))).toOption

/-- The register a register number names; 0x0B to 0xFF name none (R85). -/
def Reg.ofNumber (r : Byte) : Option Reg :=
  match r.toNat with
  | 0x00 => some .cmd
  | 0x01 => some .status
  | 0x02 => some .err
  | 0x03 => some .key
  | 0x04 => some .iv
  | 0x05 => some .alen
  | 0x06 => some .dlen
  | 0x07 => some .tag
  | 0x08 => some .opa
  | 0x09 => some .opb
  | 0x0A => some .res
  | _ => none

/-- The number of a register (R85). -/
def Reg.number : Reg → Byte
  | .cmd => 0x00#8
  | .status => 0x01#8
  | .err => 0x02#8
  | .key => 0x03#8
  | .iv => 0x04#8
  | .alen => 0x05#8
  | .dlen => 0x06#8
  | .tag => 0x07#8
  | .opa => 0x08#8
  | .opb => 0x09#8
  | .res => 0x0A#8

/-- The width of a register in bits (R85). -/
def Reg.width : Reg → Nat
  | .cmd | .status | .err => 8
  | .key | .tag | .opa | .opb | .res => 128
  | .iv => 96
  | .alen | .dlen => 64

/-- The width of the value a register transaction carries: exactly the register's (R85). For a number
that names no register the width is irrelevant (R86); the model takes 8 (DESIGN CHOICE, safe,
assumption log 10). -/
def regWidth (r : Byte) : Nat :=
  match Reg.ofNumber r with
  | some g => g.width
  | none => 8

/-- The buffer a space number names: 0 `ABUF`, 1 `IBUF`, 2 `OBUF`; 3 to 255 name none (R60, R85). -/
def Space.ofNumber (n : Byte) : Option Space :=
  match n.toNat with
  | 0 => some .abuf
  | 1 => some .ibuf
  | 2 => some .obuf
  | _ => none

/-- The space number of a buffer (R60). -/
def Space.number : Space → Byte
  | .abuf => 0#8
  | .ibuf => 1#8
  | .obuf => 2#8

end Sys2Proof
end

