-- ==== Sys2Proof/Machine/State.lean ====
section
/-! DEFINITION. The state of the core (spec 10_state.md R20), the host's transactions and their
responses (30_encoding.md R86), and the state after reset (10_state.md R38).

`CoreState` has exactly the fields of R20. `State`, which the host steps, puts around it as plain data
what a step needs and the spec passes as arguments: the two capacities (R6), the host's transactions
still to be performed and the responses given (R100), and the counters the free values are applied to
(assumption log 1, 2, 3, 4, 7, 16). -/

namespace Sys2Proof.Machine

/-- Reasons for the machine to stop with a fault. There is none: every command terminates, every
transaction gets a response, and there is no trap (70_reset_and_hazards.md R235, 60_exceptions.md
R220, 93_implementation_defined.md section 1). A failure is a code in `ERR` or the response
`BusError`, both of which are next states (assumption log 13; safe). -/
inductive Fault
  deriving DecidableEq, Repr

/-- Reasons for the machine to give an instruction no meaning. -/
inductive Refusal
  /-- Raised by `exec` alone, for a command of the opcode table that has no meaning yet; safe. No
  command is in that case. -/
  | notModelled (mnemonic : String)
  deriving DecidableEq, Repr

/-- A host transaction: exactly the four shapes of R86. The value of a register write has exactly the
register's width, so that a key or IV of a wrong length cannot be expressed (R85, R64). -/
inductive Transaction
  /-- `RegWrite(r, v)`. -/
  | regWrite (r : Byte) (v : BitVec (regWidth r))
  /-- `RegRead(r)`. -/
  | regRead (r : Byte)
  /-- `BufWrite(s, a, b)`: space number, address, byte. -/
  | bufWrite (s : Byte) (a : Length) (b : Byte)
  /-- `BufRead(s, a)`: space number, address. -/
  | bufRead (s : Byte) (a : Length)
  deriving DecidableEq, Repr

/-- The response to a transaction (R86). -/
inductive Response
  /-- `Ok`, to an accepted write. -/
  | ok
  /-- `Ok(v)`, to an accepted read: `v` of the width of the register, or a byte. -/
  | value (width : Nat) (v : BitVec width)
  /-- `BusError`, to a transaction that is malformed in itself (R218). -/
  | busError
  deriving DecidableEq, Repr

/-- What the world outside does to the core, in one total order: a transaction, or a reset between two
transactions (R67, R100, R230, R231). -/
inductive HostEvent
  | transaction (t : Transaction)
  | reset
  deriving DecidableEq, Repr

/-- The bytes of one buffer that have been written since reset, as (address, byte) pairs with strictly
rising addresses. An address that is not listed has no written value (assumption log 5). -/
abbrev Memory := List Host.Cell

/-- The complete state of the core: exactly the fields of R20, and nothing else. -/
@[ext]
structure CoreState where
  /-- `KEY` (R23). -/
  key : Block
  /-- `IV` (R24). -/
  iv : IvWord
  /-- `ALEN`, bytes of associated data (R25). -/
  alen : Length
  /-- `DLEN`, bytes of input text (R25). -/
  dlen : Length
  /-- `TAG` (R26). -/
  tag : Block
  /-- `OPA` (R27). -/
  opa : Block
  /-- `OPB` (R27). -/
  opb : Block
  /-- `RES` (R28). -/
  res : Block
  /-- `KEYV`: `KEY` holds a key the host wrote (R29). -/
  keyv : Bool
  /-- `IVV`: `IV` holds an IV the host wrote (R29). -/
  ivv : Bool
  /-- `RKV`: `RK` holds `KeyExpand(KEY)` for the current `KEY` (R29). -/
  rkv : Bool
  /-- `ERR`: outcome code of the most recent command (R31). -/
  err : Byte
  /-- `RK[0..10]` (R33). -/
  rk : Schedule
  /-- `H`, working register (R34). -/
  h : Block
  /-- `Y`, working register (R34). -/
  y : Block
  /-- `CTR`, working register (R34). -/
  ctr : Word
  /-- `EJ0`, working register (R34). -/
  ej0 : Block
  /-- `ABUF` (R36). -/
  abuf : Memory
  /-- `IBUF` (R36). -/
  ibuf : Memory
  /-- `OBUF` (R36). -/
  obuf : Memory
  deriving DecidableEq, Repr

/-- A state of the machine that the host steps: the core's own state, which is `CoreState` and nothing
else (R20), and around it what the spec keeps outside that record, as arguments of a machine (R6, R38)
and as the input and output of a step (R100) (assumption log 16). -/
@[ext]
structure State extends CoreState where
  /-- `ABUF_SIZE`, a constant of the machine that no step changes (R6, R21; assumption log 3). -/
  abufSize : Nat
  /-- `DBUF_SIZE`, a constant of the machine that no step changes (R6, R21; assumption log 3). -/
  dbufSize : Nat
  /-- The model's own: how many resets there have been, the index of the unspecified buffer contents
  (assumption log 4). -/
  resets : Nat
  /-- The model's own: how often the working registers have become unspecified, the index of their
  free values (assumption log 7). -/
  releases : Nat
  /-- The model's own: what the host will do next, first event first (assumption log 1). -/
  inbox : List HostEvent
  /-- The model's own: the responses given so far, first one first (assumption log 2). -/
  responses : List Response
  deriving DecidableEq, Repr

/-- The core right after reset (R38, R230). The working registers, which R38 leaves unspecified, are
zero (DESIGN CHOICE, unsafe, assumption log 6); the buffers, which R38 leaves unspecified too, list
nothing, so that each of their bytes is a free value (assumption log 4). -/
def CoreState.reset : CoreState where
  key := 0
  iv := 0
  alen := 0
  dlen := 0
  tag := 0
  opa := 0
  opb := 0
  res := 0
  keyv := false
  ivv := false
  rkv := false
  err := 0
  rk := Vector.replicate 11 0
  h := 0
  y := 0
  ctr := 0
  ej0 := 0
  abuf := []
  ibuf := []
  obuf := []

/-- The machine right after reset, for given capacities (R6, R38). -/
def State.resetWith (abufSize dbufSize : Nat) : State where
  toCoreState := CoreState.reset
  abufSize := abufSize
  dbufSize := dbufSize
  resets := 0
  releases := 0
  inbox := []
  responses := []

/-- The machine right after reset (R38). No transaction is pending: the core waits for the first one
(R230). -/
def State.reset : State := State.resetWith Config.abufSizeAtReset Config.dbufSizeAtReset

end Sys2Proof.Machine
end

