-- ==== Sys2Proof/Machine/Ops.lean ====
section
/-! DEFINITION. The named operations over buffers and registers, and the one way a command reports its
outcome (spec 20_memory.md, 40_host_transactions.md, 46_gcm.md R197, 60_exceptions.md). The core has
no trap and no return from one (R220): what another machine does by taking an exception it does by
`State.refuse`. -/

namespace Sys2Proof.Machine

/-! ### One buffer -/

/-- The written value of the byte at `a`, or none where nothing has been written since reset. -/
def Memory.lookup : Memory → Nat → Option Byte
  | [], _ => none
  | c :: m, a => if c.1 = a then some c.2 else Memory.lookup m a

/-- Write one byte. An address that nothing has written has no value, so no written byte equals what an
unlisted address holds and every write leaves an entry (assumption log 5). -/
def Memory.write : Memory → Nat → Byte → Memory
  | [], a, b => [(a, b)]
  | c :: m, a, b =>
    if a < c.1 then (a, b) :: c :: m
    else if a = c.1 then (a, b) :: m
    else c :: Memory.write m a b

/-- Write consecutive bytes, the first one at `a` (R12, `MemWrite`). -/
def Memory.writeBytes : Memory → Nat → List Byte → Memory
  | m, _, [] => m
  | m, a, b :: bs => Memory.writeBytes (Memory.write m a b) (a + 1) bs

/-- The canonical form: addresses strictly rising. -/
abbrev Memory.wf (m : Memory) : Prop := m.Pairwise (fun c d => c.1 < d.1)

/-- Every listed address lies inside a buffer of `size` bytes (R36). -/
abbrev Memory.inside (m : Memory) (size : Nat) : Prop := ∀ c ∈ m, c.1 < size

/-! ### The three buffers of the state -/

/-- The written bytes of a buffer. -/
def State.buf (s : State) : Space → Memory
  | .abuf => s.abuf
  | .ibuf => s.ibuf
  | .obuf => s.obuf

/-- `size(ABUF) = ABUF_SIZE`, `size(IBUF) = size(OBUF) = DBUF_SIZE` (R104). -/
def State.bufSize (s : State) : Space → Nat
  | .abuf => s.abufSize
  | .ibuf | .obuf => s.dbufSize

/-- Replace the written bytes of a buffer. -/
def State.setBuf (s : State) (sp : Space) (m : Memory) : State :=
  match sp with
  | .abuf => { s with abuf := m }
  | .ibuf => { s with ibuf := m }
  | .obuf => { s with obuf := m }

/-- The byte at an address of a buffer. A byte that nothing has written since reset holds the value
reset left there, which the spec does not give: a free value, fixed until written (R38, R104;
assumption log 4). An address at or above the size of the buffer holds no byte (R36): a transaction is
checked against the size first, and what the function answers there is used by no rule (DESIGN CHOICE,
assumption log 17). -/
def State.bufByte (s : State) (sp : Space) (a : Nat) : Byte :=
  ((s.buf sp).lookup a).getD (Config.resetByte s.resets sp a)

/-- `MemRead(space, addr, n)`: lowest address first (R12). -/
def State.memRead (s : State) (sp : Space) (a n : Nat) : List Byte :=
  (List.range n).map fun k => s.bufByte sp (a + k)

/-- `MemWrite(space, addr, n, v)`: `v[0]` at `addr` (R12). -/
def State.memWrite (s : State) (sp : Space) (a : Nat) (v : List Byte) : State :=
  s.setBuf sp ((s.buf sp).writeBytes a v)

/-! ### Reporting an outcome -/

/-- The six outcomes of a command (R210). -/
inductive ErrCode
  | ok | illegal | precond | length | ctr | auth
  deriving DecidableEq, Repr

/-- The code of an outcome in `ERR` (R210). -/
def ErrCode.code : ErrCode → Byte
  | .ok => 0x00#8
  | .illegal => 0x01#8
  | .precond => 0x02#8
  | .length => 0x03#8
  | .ctr => 0x04#8
  | .auth => 0x05#8

/-- Write the outcome of the last command into `ERR` (R31). -/
def State.report (s : State) (e : ErrCode) : State :=
  { s with err := e.code }

/-- `refuse E`: `ERR` takes the code of `E` and nothing else changes (R212). -/
def State.refuse (s : State) (e : ErrCode) : State :=
  s.report e

/-- The end of a command that completes: `ERR <- 0x00` (R105). -/
def State.complete (s : State) : State :=
  s.report .ok

/-- The first test that fails, in the order the tests are listed (R217). -/
def firstFailure : List (Bool × ErrCode) → Option ErrCode
  | [] => none
  | (fails, e) :: rest => if fails then some e else firstFailure rest

/-- A command: its tests in their fixed order, before anything is written, and then its run (R105,
R212, R217). -/
def runCommand (tests : List (Bool × ErrCode)) (body : State → State) (s : State) :
    Host.Outcome State Fault Refusal :=
  match firstFailure tests with
  | some e => .next (s.refuse e)
  | none => .next (body s)

/-! ### Register updates -/

/-- `wr KEY, v`: the key, its flag, and no schedule any more (R101). -/
def State.loadKey (s : State) (v : Block) : State :=
  { s with key := v, keyv := true, rkv := false, rk := Vector.replicate 11 0 }

/-- `wr IV, v` (R102). -/
def State.loadIv (s : State) (v : IvWord) : State :=
  { s with iv := v, ivv := true }

/-- `ALEN <- v` (R103). -/
def State.setAlen (s : State) (v : Length) : State := { s with alen := v }

/-- `DLEN <- v` (R103). -/
def State.setDlen (s : State) (v : Length) : State := { s with dlen := v }

/-- `TAG <- v` (R103, R195). -/
def State.setTag (s : State) (v : Block) : State := { s with tag := v }

/-- `OPA <- v` (R103). -/
def State.setOpa (s : State) (v : Block) : State := { s with opa := v }

/-- `OPB <- v` (R103). -/
def State.setOpb (s : State) (v : Block) : State := { s with opb := v }

/-- `RES <- v` (R28). -/
def State.setRes (s : State) (v : Block) : State := { s with res := v }

/-- `RK[0 .. 10] <- v` (R33). -/
def State.setRk (s : State) (v : Schedule) : State := { s with rk := v }

/-- `RKV <- v` (R29). -/
def State.setRkv (s : State) (v : Bool) : State := { s with rkv := v }

/-- `H <- v` (R34). -/
def State.setH (s : State) (v : Block) : State := { s with h := v }

/-- `Y <- v` (R34). -/
def State.setY (s : State) (v : Block) : State := { s with y := v }

/-- `CTR <- v` (R34). -/
def State.setCtr (s : State) (v : Word) : State := { s with ctr := v }

/-- `EJ0 <- v` (R34). -/
def State.setEj0 (s : State) (v : Block) : State := { s with ej0 := v }

/-- `H`, `Y`, `CTR` and `EJ0` become unspecified, as they are between commands (R34, R197): each takes
a free value (assumption log 7). -/
def State.releaseWorking (s : State) : State :=
  { s with
    h := Config.freeH s.releases
    y := Config.freeY s.releases
    ctr := Config.freeCtr s.releases
    ej0 := Config.freeEj0 s.releases
    releases := s.releases + 1 }

/-- The first three lines of `Discard()`: no key material is left (R197). -/
def State.zeroKeys (s : State) : State :=
  { s with
    key := 0, keyv := false, iv := 0, ivv := false
    rk := Vector.replicate 11 0, rkv := false }

/-- `Discard()`, the last step of `GCMENC` and `GCMDEC` (R197). -/
def State.discard (s : State) : State :=
  s.zeroKeys.releaseWorking

/-- Every register and flag that the spec gives a reset value takes it (R38, R106). -/
def State.clearRegisters (s : State) : State :=
  { s with
    key := 0, iv := 0, alen := 0, dlen := 0, tag := 0, opa := 0, opb := 0, res := 0
    rk := Vector.replicate 11 0, keyv := false, ivv := false, rkv := false
    err := ErrCode.ok.code }

/-- The contents of all three buffers become unspecified (R230, D21). -/
def State.forgetBuffers (s : State) : State :=
  { s with abuf := [], ibuf := [], obuf := [], resets := s.resets + 1 }

/-- A reset between two transactions (R230, R231): the registers as R38 says, the working registers and
the buffers unspecified. What the host has still to do and what it has been answered are the host's and
stay. -/
def State.afterReset (s : State) : State :=
  s.clearRegisters.releaseWorking.forgetBuffers

/-- What the host will do next (assumption log 1). -/
def State.setInbox (s : State) (q : List HostEvent) : State := { s with inbox := q }

/-- Give the host a response (R100; assumption log 2). -/
def State.respond (s : State) (r : Response) : State :=
  { s with responses := s.responses ++ [r] }

end Sys2Proof.Machine
end

