-- ==== Sys2Proof/Machine/Flags.lean ====
section
/-! DEFINITION. The three flags as the commands test them and as `STATUS` shows them (spec 10_state.md
R29, R30; 60_exceptions.md R213). No command computes an arithmetic flag: there are none (R29). -/

namespace Sys2Proof.Machine

/-- A flag as a bit. -/
def flagBit (f : Bool) : Byte :=
  if f then 1#8 else 0#8

/-- `STATUS`: `KEYV + 2*IVV + 4*RKV`; bits 7:3 read as 0 (R30, R107). -/
def State.status (s : State) : Byte :=
  flagBit s.keyv + 2#8 * flagBit s.ivv + 4#8 * flagBit s.rkv

/-- `KEYEXP` needs `KEYV = 1` (R213). -/
def State.lacksKey (s : State) : Bool :=
  !s.keyv

/-- `RKRD` and `AESENC` need `RKV = 1` (R213). -/
def State.lacksSchedule (s : State) : Bool :=
  !s.rkv

/-- `CTRXOR` needs `RKV = 1` and `IVV = 1` (R213). -/
def State.lacksScheduleOrIv (s : State) : Bool :=
  !s.rkv || !s.ivv

/-- `GCMENC` and `GCMDEC` need `KEYV = 1` and `IVV = 1` (R213). -/
def State.lacksKeyOrIv (s : State) : Bool :=
  !s.keyv || !s.ivv

/-- The value the host reads from a register (R107): `CMD` reads as 0x00 (R32), `STATUS` as the flags. -/
def State.regValue (s : State) : (r : Reg) → BitVec r.width
  | .cmd => 0x00#8
  | .status => s.status
  | .err => s.err
  | .key => s.key
  | .iv => s.iv
  | .alen => s.alen
  | .dlen => s.dlen
  | .tag => s.tag
  | .opa => s.opa
  | .opb => s.opb
  | .res => s.res

end Sys2Proof.Machine
end

