-- ==== Sys2Proof/Machine/Bytes.lean ====
section
/-! DEFINITION. Byte strings, their bits and their integers (spec 00_scope.md R9 to R12). -/

namespace Sys2Proof.Machine

/-- `s[i]` of a 16-byte string, `0 <= i <= 15`; byte 0 is the most significant (R9, R11). -/
def blockByte (s : Block) (i : Nat) : Byte :=
  s.extractLsb' (8 * (15 - i)) 8

/-- The 16-byte string whose byte `i` is `f i` (R9, R11). -/
def blockOfFn (f : Nat → Byte) : Block :=
  f 0 ++ f 1 ++ f 2 ++ f 3 ++ f 4 ++ f 5 ++ f 6 ++ f 7 ++
    f 8 ++ f 9 ++ f 10 ++ f 11 ++ f 12 ++ f 13 ++ f 14 ++ f 15

/-- A block as a message: its 16 bytes, first byte first (R9). -/
def blockBytes (s : Block) : List Byte :=
  (List.range 16).map (blockByte s)

/-- A 16-byte message as a block (R9). A shorter list is filled with zero bytes; no rule makes a block
of one. -/
def blockOfBytes (l : List Byte) : Block :=
  blockOfFn fun i => l.getD i 0

/-- `bit(s, i)`: bit 0 is the most significant bit of byte 0, bit 127 the least significant bit of
byte 15 (R11). -/
def bit (s : Block) (i : Nat) : Bool :=
  s.getMsbD i

/-- `shr1(s)`: a one-bit right shift of the whole string read as one big-endian number (R11). -/
def shr1 (s : Block) : Block :=
  s >>> 1

/-- `zeros(n)` (R9). -/
def zeros (n : Nat) : List Byte :=
  List.replicate n 0

/-- `a xor b`, bytewise; as long as the shorter one, which truncates a keystream block to a partial
block of text (R9, R182). For a keystream shorter than the text, which no rule has, the text is
truncated (DESIGN CHOICE, assumption log 17). -/
def xorBytes (a b : List Byte) : List Byte :=
  List.zipWith (· ^^^ ·) a b

/-- `be64(n)`: 8 bytes, most significant first, for `n < 2^64` (R10). For a larger `n`, where R10 defines
nothing, `n` modulo `2^64` (DESIGN CHOICE, assumption log 17). -/
def be64 (n : Nat) : List Byte :=
  (List.range 8).map fun k => BitVec.ofNat 8 (n / 2 ^ (8 * (7 - k)))

/-- `be32(n)`: 4 bytes, most significant first, for `n < 2^32` (R10). For a larger `n`, where R10 defines
nothing, `n` modulo `2^32` (DESIGN CHOICE, assumption log 17). -/
def be32 (n : Nat) : List Byte :=
  (List.range 4).map fun k => BitVec.ofNat 8 (n / 2 ^ (8 * (3 - k)))

/-- `ceil16(n)`: the number of 16-byte blocks that cover `n` bytes (R12). -/
def ceil16 (n : Nat) : Nat :=
  (n + 15) / 16

/-- `D[16*j .. 16*j+15]`: the 16-byte piece `j` of a message, shorter at its end (R61). -/
def piece (d : List Byte) (j : Nat) : List Byte :=
  (d.drop (16 * j)).take 16

end Sys2Proof.Machine
end

