-- ==== Sys2Proof/Machine/Operands.lean ====
section
/-! DEFINITION. The operands of the commands, all of them implicit but a round index (spec
30_encoding.md R81): the messages in the buffers and the bounds on their lengths (60_exceptions.md
R214, R215), one round key of the file (R33), and the registers as the host reads them (R107). -/

namespace Sys2Proof.Machine

/-- The associated data, `ABUF[0 .. ALEN-1]` (R25). -/
def State.aad (s : State) : List Byte :=
  s.memRead .abuf 0 s.alen.toNat

/-- The input text, `IBUF[0 .. DLEN-1]` (R25). -/
def State.text (s : State) : List Byte :=
  s.memRead .ibuf 0 s.dlen.toNat

/-- Lengths stay below `2^61` bytes, so that each bit length fits its 64-bit field (R192). -/
def lengthLimit : Nat := 2 ^ 61

/-- A counter-mode pass has at most `2^32 - 2` blocks (R184). -/
def maxBlocks : Nat := 2 ^ 32 - 2

/-- `ALEN > ABUF_SIZE or ALEN >= 2^61` (R214). -/
def State.aadTooLong (s : State) : Bool :=
  decide (s.abufSize < s.alen.toNat) || decide (lengthLimit ≤ s.alen.toNat)

/-- `DLEN > DBUF_SIZE or DLEN >= 2^61` (R214). -/
def State.textTooLong (s : State) : Bool :=
  decide (s.dbufSize < s.dlen.toNat) || decide (lengthLimit ≤ s.dlen.toNat)

/-- `DLEN mod 16 != 0`, the input contract of the GHASH unit (R170, R214). -/
def State.textRagged (s : State) : Bool :=
  decide (s.dlen.toNat % 16 ≠ 0)

/-- `ceil16(DLEN) > 2^32 - 2` (R184, R215). -/
def State.counterExhausted (s : State) : Bool :=
  decide (maxBlocks < ceil16 s.dlen.toNat)

/-- `RK[r]`, `0 <= r <= 10` (R12, R33); zero for a larger index, which no rule uses. -/
def roundKey (rk : Schedule) (r : Nat) : Block :=
  rk.toList.getD r 0

end Sys2Proof.Machine
end

