-- ==== Sys2Proof/Machine/KeySchedule.lean ====
section
/-! DEFINITION. The Key Schedule Expander and its commands `KEYEXP` and `RKRD` (spec
41_key_schedule.md). -/

namespace Sys2Proof.Machine

/-! ### Arithmetic in GF(2^8) -/

/-- The S-box as R121 prints it, row by high nibble and column by low nibble. -/
def sboxRows : List (List Byte) :=
  [[0x63#8, 0x7c#8, 0x77#8, 0x7b#8, 0xf2#8, 0x6b#8, 0x6f#8, 0xc5#8, 0x30#8, 0x01#8, 0x67#8, 0x2b#8, 0xfe#8, 0xd7#8, 0xab#8, 0x76#8],
   [0xca#8, 0x82#8, 0xc9#8, 0x7d#8, 0xfa#8, 0x59#8, 0x47#8, 0xf0#8, 0xad#8, 0xd4#8, 0xa2#8, 0xaf#8, 0x9c#8, 0xa4#8, 0x72#8, 0xc0#8],
   [0xb7#8, 0xfd#8, 0x93#8, 0x26#8, 0x36#8, 0x3f#8, 0xf7#8, 0xcc#8, 0x34#8, 0xa5#8, 0xe5#8, 0xf1#8, 0x71#8, 0xd8#8, 0x31#8, 0x15#8],
   [0x04#8, 0xc7#8, 0x23#8, 0xc3#8, 0x18#8, 0x96#8, 0x05#8, 0x9a#8, 0x07#8, 0x12#8, 0x80#8, 0xe2#8, 0xeb#8, 0x27#8, 0xb2#8, 0x75#8],
   [0x09#8, 0x83#8, 0x2c#8, 0x1a#8, 0x1b#8, 0x6e#8, 0x5a#8, 0xa0#8, 0x52#8, 0x3b#8, 0xd6#8, 0xb3#8, 0x29#8, 0xe3#8, 0x2f#8, 0x84#8],
   [0x53#8, 0xd1#8, 0x00#8, 0xed#8, 0x20#8, 0xfc#8, 0xb1#8, 0x5b#8, 0x6a#8, 0xcb#8, 0xbe#8, 0x39#8, 0x4a#8, 0x4c#8, 0x58#8, 0xcf#8],
   [0xd0#8, 0xef#8, 0xaa#8, 0xfb#8, 0x43#8, 0x4d#8, 0x33#8, 0x85#8, 0x45#8, 0xf9#8, 0x02#8, 0x7f#8, 0x50#8, 0x3c#8, 0x9f#8, 0xa8#8],
   [0x51#8, 0xa3#8, 0x40#8, 0x8f#8, 0x92#8, 0x9d#8, 0x38#8, 0xf5#8, 0xbc#8, 0xb6#8, 0xda#8, 0x21#8, 0x10#8, 0xff#8, 0xf3#8, 0xd2#8],
   [0xcd#8, 0x0c#8, 0x13#8, 0xec#8, 0x5f#8, 0x97#8, 0x44#8, 0x17#8, 0xc4#8, 0xa7#8, 0x7e#8, 0x3d#8, 0x64#8, 0x5d#8, 0x19#8, 0x73#8],
   [0x60#8, 0x81#8, 0x4f#8, 0xdc#8, 0x22#8, 0x2a#8, 0x90#8, 0x88#8, 0x46#8, 0xee#8, 0xb8#8, 0x14#8, 0xde#8, 0x5e#8, 0x0b#8, 0xdb#8],
   [0xe0#8, 0x32#8, 0x3a#8, 0x0a#8, 0x49#8, 0x06#8, 0x24#8, 0x5c#8, 0xc2#8, 0xd3#8, 0xac#8, 0x62#8, 0x91#8, 0x95#8, 0xe4#8, 0x79#8],
   [0xe7#8, 0xc8#8, 0x37#8, 0x6d#8, 0x8d#8, 0xd5#8, 0x4e#8, 0xa9#8, 0x6c#8, 0x56#8, 0xf4#8, 0xea#8, 0x65#8, 0x7a#8, 0xae#8, 0x08#8],
   [0xba#8, 0x78#8, 0x25#8, 0x2e#8, 0x1c#8, 0xa6#8, 0xb4#8, 0xc6#8, 0xe8#8, 0xdd#8, 0x74#8, 0x1f#8, 0x4b#8, 0xbd#8, 0x8b#8, 0x8a#8],
   [0x70#8, 0x3e#8, 0xb5#8, 0x66#8, 0x48#8, 0x03#8, 0xf6#8, 0x0e#8, 0x61#8, 0x35#8, 0x57#8, 0xb9#8, 0x86#8, 0xc1#8, 0x1d#8, 0x9e#8],
   [0xe1#8, 0xf8#8, 0x98#8, 0x11#8, 0x69#8, 0xd9#8, 0x8e#8, 0x94#8, 0x9b#8, 0x1e#8, 0x87#8, 0xe9#8, 0xce#8, 0x55#8, 0x28#8, 0xdf#8],
   [0x8c#8, 0xa1#8, 0x89#8, 0x0d#8, 0xbf#8, 0xe6#8, 0x42#8, 0x68#8, 0x41#8, 0x99#8, 0x2d#8, 0x0f#8, 0xb0#8, 0x54#8, 0xbb#8, 0x16#8]]

/-- `Sbox(a)` (R121). -/
def sbox (a : Byte) : Byte :=
  (sboxRows.getD (a.toNat / 16) []).getD (a.toNat % 16) 0

/-- `Xtime(a)`: doubling, with the feedback 0x1B (R123). -/
def xtime (a : Byte) : Byte :=
  if 0x80#8 ≤ a then (a <<< 1) ^^^ 0x1B#8 else a <<< 1

/-- `Xtime^k(a)` (R123). -/
def xtimePow : Nat → Byte → Byte
  | 0, a => a
  | k + 1, a => xtime (xtimePow k a)

/-- `Gf8Mul(a, b)`: the xor of `Xtime^k(a)` over every `k` with bit `k` of `b` set (R123). -/
def gf8Mul (a b : Byte) : Byte :=
  (List.range 8).foldl (fun acc k => if b.getLsbD k then acc ^^^ xtimePow k a else acc) 0

/-- `Rcon(k + 1)`: `Rcon(1) = 0x01`, `Rcon(i+1) = Xtime(Rcon(i))` (R124). -/
def rconFrom1 : Nat → Byte
  | 0 => 0x01#8
  | k + 1 => xtime (rconFrom1 k)

/-- `Rcon(i)`, used for `i` from 1 to 10 only (R124). -/
def rcon (i : Nat) : Byte :=
  rconFrom1 (i - 1)

/-! ### Words -/

/-- Byte `j` of a word, `0 <= j <= 3` (R125). -/
def wordByte (w : Word) (j : Nat) : Byte :=
  w.extractLsb' (8 * (3 - j)) 8

/-- `SubWord(w)`: the S-box on each byte (R125). -/
def subWord (w : Word) : Word :=
  sbox (wordByte w 0) ++ sbox (wordByte w 1) ++ sbox (wordByte w 2) ++ sbox (wordByte w 3)

/-- `RotWord(w) = w[1] ‖ w[2] ‖ w[3] ‖ w[0]` (R125). -/
def rotWord (w : Word) : Word :=
  wordByte w 1 ++ wordByte w 2 ++ wordByte w 3 ++ wordByte w 0

/-- `RconWord(i) = Rcon(i) ‖ 00 ‖ 00 ‖ 00` (R125). -/
def rconWord (i : Nat) : Word :=
  rcon i ++ 0#24

/-! ### The expansion -/

/-- What `w[i-1]` becomes before it is added to `w[i-4]`: at a multiple of 4 rotated, substituted and
given the round constant (R126). -/
def scheduleTemp (i : Nat) (t : Word) : Word :=
  if i % 4 = 0 then subWord (rotWord t) ^^^ rconWord (i / 4) else t

/-- Put `w[i]` in front of the words before it, newest first: `w[i] = w[i-4] xor t` (R126). -/
def scheduleStep (i : Nat) (ws : List Word) : List Word :=
  (ws.getD 3 0 ^^^ scheduleTemp i (ws.getD 0 0)) :: ws

/-- The words `w[n+3]` down to `w[0]` of a key: its own four words, and `n` more (R126). -/
def scheduleWords (k : Block) : Nat → List Word
  | 0 => [k.extractLsb' 0 32, k.extractLsb' 32 32, k.extractLsb' 64 32, k.extractLsb' 96 32]
  | n + 1 => scheduleStep (n + 4) (scheduleWords k n)

/-- Words `4r` to `4r+3`, in order, as round key `r` (R126); the words are given first word first. -/
def roundKeyOfWords (ws : List Word) (r : Nat) : Block :=
  ws.getD (4 * r) 0 ++ ws.getD (4 * r + 1) 0 ++ ws.getD (4 * r + 2) 0 ++ ws.getD (4 * r + 3) 0

/-- Eleven round keys from 44 words (R126). -/
def scheduleOfWords (ws : List Word) : Schedule :=
  #v[roundKeyOfWords ws 0, roundKeyOfWords ws 1, roundKeyOfWords ws 2, roundKeyOfWords ws 3,
    roundKeyOfWords ws 4, roundKeyOfWords ws 5, roundKeyOfWords ws 6, roundKeyOfWords ws 7,
    roundKeyOfWords ws 8, roundKeyOfWords ws 9, roundKeyOfWords ws 10]

/-- `KeyExpand(k)`: the 11 round keys computed from 44 words (R126). -/
def keyExpand (k : Block) : Schedule :=
  scheduleOfWords (scheduleWords k 40).reverse

/-! ### Commands -/

/-- `KEYEXP` (R127). -/
def execKeyexp (s : State) : Host.Outcome State Fault Refusal :=
  runCommand [(s.lacksKey, .precond)]
    (fun s => ((s.setRk (keyExpand s.key)).setRkv true).complete) s

/-- `RKRD n` (R128). A round index from 11 to 15 is not this command: its byte is illegal, which is
found before any flag is looked at (R84, R128, R217; the decoder never makes one, assumption log 9). -/
def execRkrd (n : BitVec 4) (s : State) : Host.Outcome State Fault Refusal :=
  runCommand [(decide (10 < n.toNat), .illegal), (s.lacksSchedule, .precond)]
    (fun s => (s.setRes (roundKey s.rk n.toNat)).complete) s

end Sys2Proof.Machine
end

