-- ==== Sys2Proof/Machine/BlockTransform.lean ====
section
/-! DEFINITION. The Block Transform and its command `AESENC` (spec 42_block_transform.md). State byte
`r + 4*c` is in row `r` and column `c` (R140). -/

namespace Sys2Proof.Machine

/-- `SubBytes(s)` (R141). -/
def subBytes (s : Block) : Block :=
  blockOfFn fun i => sbox (blockByte s i)

/-- `ShiftRows(s)[r + 4*c] = s[r + 4*((c + r) mod 4)]` (R142). -/
def shiftRows (s : Block) : Block :=
  blockOfFn fun i => blockByte s (i % 4 + 4 * ((i / 4 + i % 4) % 4))

/-- `T(a) = Xtime(a) xor a`, multiplication by 0x03 (R143). -/
def xtime3 (a : Byte) : Byte :=
  xtime a ^^^ a

/-- Row `r` of the MixColumns matrix applied to the column `a0 a1 a2 a3` (R143). -/
def mixColumn (r : Nat) (a0 a1 a2 a3 : Byte) : Byte :=
  match r with
  | 0 => xtime a0 ^^^ xtime3 a1 ^^^ a2 ^^^ a3
  | 1 => a0 ^^^ xtime a1 ^^^ xtime3 a2 ^^^ a3
  | 2 => a0 ^^^ a1 ^^^ xtime a2 ^^^ xtime3 a3
  | _ => xtime3 a0 ^^^ a1 ^^^ a2 ^^^ xtime a3

/-- `MixColumns(s)`, the four columns independently (R143). -/
def mixColumns (s : Block) : Block :=
  blockOfFn fun i =>
    mixColumn (i % 4) (blockByte s (4 * (i / 4))) (blockByte s (4 * (i / 4) + 1))
      (blockByte s (4 * (i / 4) + 2)) (blockByte s (4 * (i / 4) + 3))

/-- `AddRoundKey(s, k)` (R144). -/
def addRoundKey (s k : Block) : Block :=
  s ^^^ k

/-- The state after full rounds 1 to `n` (R145). -/
def fullRounds (rk : Schedule) : Nat → Block → Block
  | 0, s => s
  | n + 1, s =>
    addRoundKey (mixColumns (shiftRows (subBytes (fullRounds rk n s)))) (roundKey rk (n + 1))

/-- `BlockTransform(RK, b)`: round key 0, nine full rounds, and a final round without MixColumns
(R145). -/
def blockTransform (rk : Schedule) (b : Block) : Block :=
  addRoundKey (shiftRows (subBytes (fullRounds rk 9 (addRoundKey b (roundKey rk 0)))))
    (roundKey rk 10)

/-- `AESENC` (R146). -/
def execAesenc (s : State) : Host.Outcome State Fault Refusal :=
  runCommand [(s.lacksSchedule, .precond)]
    (fun s => (s.setRes (blockTransform s.rk s.opa)).complete) s

end Sys2Proof.Machine
end

