-- ==== Sys2Proof/Machine/CounterMode.lean ====
section
/-! DEFINITION. The Counter-Mode Encryptor and its command `CTRXOR` (spec 45_counter_mode.md). -/

namespace Sys2Proof.Machine

/-- `CounterBlock(iv, c) = iv ‖ be32(c)`: with the first byte the most significant, the counter is the
low 32 bits (R181). -/
def counterBlock (iv : IvWord) (c : Word) : Block :=
  iv ++ c

/-- `Inc32(c)`: the successor that wraps to 1, not to 0 (R183). -/
def inc32 (c : Word) : Word :=
  if c = 0xFFFFFFFF#32 then 1#32 else c + 1#32

/-- The counter and the output of a counter-mode pass (R182). -/
structure CtrAcc where
  ctr : Word
  out : List Byte
  deriving DecidableEq, Repr

/-- Block `i` of a pass: as much of its keystream block as there is text (R182). -/
def ctrStep (rk : Schedule) (iv : IvWord) (d : List Byte) (a : CtrAcc) (i : Nat) : CtrAcc where
  ctr := inc32 a.ctr
  out := a.out ++ xorBytes (piece d i) (blockBytes (blockTransform rk (counterBlock iv a.ctr)))

/-- A whole pass: the counter starts at 2, blocks in order (R182). -/
def ctrRun (rk : Schedule) (iv : IvWord) (d : List Byte) : CtrAcc :=
  (List.range (ceil16 d.length)).foldl (ctrStep rk iv d) { ctr := 2#32, out := [] }

/-- `CtrXor(RK, iv, D)` (R182). -/
def ctrXor (rk : Schedule) (iv : IvWord) (d : List Byte) : List Byte :=
  (ctrRun rk iv d).out

/-- A counter-mode pass over a message, its result at the start of `OBUF`; `CTR` ends one past the last
counter used (R182, R185). -/
def State.ctrPass (s : State) (d : List Byte) : State :=
  (s.setCtr (ctrRun s.rk s.iv d).ctr).memWrite .obuf 0 (ctrXor s.rk s.iv d)

/-- The run of `CTRXOR` (R185); `CTR` is a working register, unspecified when it has ended (R34). -/
def ctrxorBody (s : State) : State :=
  (s.ctrPass s.text).releaseWorking.complete

/-- `CTRXOR` (R185). -/
def execCtrxor (s : State) : Host.Outcome State Fault Refusal :=
  runCommand
    [(s.lacksScheduleOrIv, .precond), (s.textTooLong, .length), (s.counterExhausted, .ctr)]
    ctrxorBody s

end Sys2Proof.Machine
end

