-- ==== Sys2Proof/Machine/GfMultiplier.lean ====
section
/-! DEFINITION. The Galois Field Multiplier and its command `GFMUL` (spec 43_gf_multiplier.md).
`bit(s, i)` is the coefficient of `x^i` (R160, 90_conflicts.md C1). -/

namespace Sys2Proof.Machine

/-- The running product and the shifted operand of the multiplication loop (R161). -/
structure GfAcc where
  z : Block
  v : Block
  deriving DecidableEq, Repr

/-- The reduction constant 0xE1 in byte 0 (R160, R161). -/
def gfReduction : Block :=
  0xE1#8 ++ 0#120

/-- The second half of an iteration: shift `V` right, and where a 1 falls out, xor 0xE1 into byte 0
(R161). It multiplies by `x` (R160). -/
def gfShift (v : Block) : Block :=
  if bit v 127 then shr1 v ^^^ gfReduction else shr1 v

/-- Iteration `i` of the loop (R161). -/
def gfStep (x : Block) (i : Nat) (a : GfAcc) : GfAcc where
  z := if bit x i then a.z ^^^ a.v else a.z
  v := gfShift a.v

/-- The first `n` iterations, bit 0 of `x` first (R161). -/
def gfLoop (x y : Block) : Nat → GfAcc
  | 0 => { z := 0, v := y }
  | n + 1 => gfStep x n (gfLoop x y n)

/-- `GfMul(X, Y)`: 128 iterations whatever the inputs (R161). -/
def gfMul (x y : Block) : Block :=
  (gfLoop x y 128).z

/-- `GFMUL` (R162). -/
def execGfmul (s : State) : Host.Outcome State Fault Refusal :=
  runCommand [] (fun s => (s.setRes (gfMul s.opa s.opb)).complete) s

end Sys2Proof.Machine
end

