-- ==== Sys2Proof/Machine/Ghash.lean ====
section
/-! DEFINITION. The GHASH Accumulator and its command `GHASH` (spec 44_ghash.md). -/

namespace Sys2Proof.Machine

/-- `GhashStep(Y, C, H) = GfMul(Y xor C, H)` (R171). -/
def ghashStep (y c h : Block) : Block :=
  gfMul (y ^^^ c) h

/-- `Ghash(D, H)`: the fold over the 16-byte chunks of `D`, chunk 0 first (R171). -/
def ghash (d : List Byte) (h : Block) : Block :=
  (List.range (d.length / 16)).foldl (fun y j => ghashStep y (blockOfBytes (piece d j)) h) 0

/-- Fold a message through `Y` under the subkey in `H` (R171, R195). -/
def State.foldGhash (s : State) (d : List Byte) : State :=
  s.setY (ghash d s.h)

/-- The run of `GHASH` (R172): `H` and `Y` are working registers, unspecified when it has ended
(R34). -/
def ghashBody (s : State) : State :=
  let t := (s.setH s.opb).foldGhash s.text
  (t.setRes t.y).releaseWorking.complete

/-- `GHASH` (R172). -/
def execGhash (s : State) : Host.Outcome State Fault Refusal :=
  runCommand [(s.textTooLong || s.textRagged, .length)] ghashBody s

end Sys2Proof.Machine
end

