-- ==== Sys2Proof/Machine/Gcm.lean ====
section
/-! DEFINITION. The GCM Orchestrator and its commands `GCMENC` and `GCMDEC` (spec 46_gcm.md). -/

namespace Sys2Proof.Machine

/-! ### The pure functions -/

/-- `Pad16(S)`: zero bytes up to a multiple of 16, none when there is no need (R190). -/
def pad16 (d : List Byte) : List Byte :=
  d ++ zeros ((16 - d.length % 16) % 16)

/-- `LenBlock(A, C)`: the two bit lengths, for strings shorter than `2^61` bytes (R190). For a longer
one, where R190 defines nothing, its bit length modulo `2^64` (DESIGN CHOICE, assumption log 17). -/
def lenBlock (a c : List Byte) : List Byte :=
  be64 (8 * a.length) ++ be64 (8 * c.length)

/-- `AuthInput(A, C)`, for strings shorter than `2^61` bytes (R190). For longer ones, where R190 defines
nothing, it is put together the same way over `lenBlock` (DESIGN CHOICE, assumption log 17). -/
def authInput (a c : List Byte) : List Byte :=
  pad16 a ++ pad16 c ++ lenBlock a c

/-- `HashSubkey(RK)` (R191). -/
def hashSubkey (rk : Schedule) : Block :=
  blockTransform rk 0

/-- `J0(iv)` (R191). -/
def j0 (iv : IvWord) : Block :=
  counterBlock iv 1#32

/-- `GcmTag(RK, iv, A, C)` (R191). -/
def gcmTag (rk : Schedule) (iv : IvWord) (a c : List Byte) : Block :=
  blockTransform rk (j0 iv) ^^^ ghash (authInput a c) (hashSubkey rk)

/-- `GcmEncrypt(key, iv, A, P)`: ciphertext and tag (R193). -/
def gcmEncrypt (key : Block) (iv : IvWord) (a p : List Byte) : List Byte × Block :=
  let rk := keyExpand key
  let c := ctrXor rk iv p
  (c, gcmTag rk iv a c)

/-- What a decryption returns (R194). -/
inductive Decryption
  | authenticationFailure
  | plaintext (p : List Byte)
  deriving DecidableEq, Repr

/-- `GcmDecrypt(key, iv, A, C, T)` (R194). -/
def gcmDecrypt (key : Block) (iv : IvWord) (a c : List Byte) (t : Block) : Decryption :=
  let rk := keyExpand key
  if gcmTag rk iv a c = t then .plaintext (ctrXor rk iv c) else .authenticationFailure

/-! ### The steps of a call, on the state -/

/-- Steps (1) and (2): `RK <- KeyExpand(KEY)`, `H <- BlockTransform(RK, zeros(16))` (R195, R196). -/
def State.beginCall (s : State) : State :=
  let t := s.setRk (keyExpand s.key)
  t.setH (hashSubkey t.rk)

/-- Steps (4), (5) and the first half of (6): `Y` from the authenticator input, and `EJ0` (R195,
R196). -/
def State.authenticate (s : State) (c : List Byte) : State :=
  let t := s.foldGhash (authInput s.aad c)
  t.setEj0 (blockTransform t.rk (j0 t.iv))

/-- `EJ0 xor Y` (R195, R196). -/
def State.workingTag (s : State) : Block :=
  s.ej0 ^^^ s.y

/-! ### Commands -/

/-- The run of `GCMENC` (R195). -/
def gcmencBody (s : State) : State :=
  let k := s.beginCall
  let t := (k.ctrPass k.text).authenticate (ctrXor k.rk k.iv k.text)
  (t.setTag t.workingTag).discard.complete

/-- The run of `GCMDEC`: the tag is checked before any byte is decrypted (R196). -/
def gcmdecBody (s : State) : State :=
  let k := s.beginCall
  let t := k.authenticate k.text
  if t.workingTag = t.tag then (t.ctrPass t.text).discard.complete else t.discard.report .auth

/-- The tests of `GCMENC` and `GCMDEC`, in order (R195, R196, R217). -/
def State.gcmTests (s : State) : List (Bool × ErrCode) :=
  [(s.lacksKeyOrIv, .precond), (s.aadTooLong || s.textTooLong, .length), (s.counterExhausted, .ctr)]

/-- `GCMENC` (R195). -/
def execGcmenc (s : State) : Host.Outcome State Fault Refusal :=
  runCommand s.gcmTests gcmencBody s

/-- `GCMDEC` (R196). -/
def execGcmdec (s : State) : Host.Outcome State Fault Refusal :=
  runCommand s.gcmTests gcmdecBody s

end Sys2Proof.Machine
end

