-- ==== Sys2Proof/Machine/Lifecycle.lean ====
section
/-! DEFINITION. The end of a call: the command `CLR` (spec 40_host_transactions.md R106). -/

namespace Sys2Proof.Machine

/-- `CLR` (R106): every register and flag takes its reset value; the working registers, whose reset
value is unspecified (R38), become unspecified (assumption log 8); the buffers stay. -/
def execClr (s : State) : Host.Outcome State Fault Refusal :=
  runCommand [] (fun s => s.releaseWorking.clearRegisters) s

end Sys2Proof.Machine
end

