-- ==== Sys2Proof/Machine/Dispatch.lean ====
section
/-! DEFINITION. One arm per command (spec 30_encoding.md R82). -/

namespace Sys2Proof.Machine

def exec (i : Instr) (s : State) : Host.Outcome State Fault Refusal :=
  match i with
  | .keyexp => Sys2Proof.Machine.execKeyexp s
  | .aesenc => Sys2Proof.Machine.execAesenc s
  | .gfmul => Sys2Proof.Machine.execGfmul s
  | .ghash => Sys2Proof.Machine.execGhash s
  | .ctrxor => Sys2Proof.Machine.execCtrxor s
  | .gcmenc => Sys2Proof.Machine.execGcmenc s
  | .gcmdec => Sys2Proof.Machine.execGcmdec s
  | .clr => Sys2Proof.Machine.execClr s
  | .rkrd n => Sys2Proof.Machine.execRkrd n s

end Sys2Proof.Machine
end

