-- ==== Sys2Proof/Machine/Transact.lean ====
section
/-! DEFINITION. The host's transactions (spec 40_host_transactions.md R100 to R107) and the events the
machine takes one at a time (R100, R230). -/

namespace Sys2Proof.Machine

/-- A command ran inside a `CMD` write: the response is `Ok` whatever its outcome (R105). -/
def acceptCommand (o : Host.Outcome State Fault Refusal) : Host.Outcome State Fault Refusal :=
  match o with
  | .next s => .next (s.respond .ok)
  | .fault f => .fault f
  | .refused r => .refused r

/-- `wr CMD, op`: decode, and run the command or report `ERR_ILLEGAL` (R105, R211). -/
def writeCmd (op : Byte) (s : State) : Host.Outcome State Fault Refusal :=
  match decode op with
  | .ok i => acceptCommand (exec i s)
  | .error _ => .next ((s.refuse .illegal).respond .ok)

/-- A malformed transaction: the response `BusError`, and no state changes (R218). -/
def busError (s : State) : Host.Outcome State Fault Refusal :=
  .next (s.respond .busError)

/-- A register write (R101 to R103, R105). -/
def writeReg (g : Reg) (v : BitVec g.width) (s : State) : Host.Outcome State Fault Refusal :=
  match g, v with
  | .cmd, op => writeCmd op s
  | .status, _ => busError s
  | .err, _ => busError s
  | .key, v => .next ((s.loadKey v).respond .ok)
  | .iv, v => .next ((s.loadIv v).respond .ok)
  | .alen, v => .next ((s.setAlen v).respond .ok)
  | .dlen, v => .next ((s.setDlen v).respond .ok)
  | .tag, v => .next ((s.setTag v).respond .ok)
  | .opa, v => .next ((s.setOpa v).respond .ok)
  | .opb, v => .next ((s.setOpb v).respond .ok)
  | .res, _ => busError s

/-- An address lies inside a buffer: `a < size(s)` (R104). -/
def State.holds (s : State) (sp : Space) (a : Length) : Bool :=
  decide (a.toNat < s.bufSize sp)

/-- The buffer a transaction names, where the address lies inside it; `s > 2 or a >= size(s)` is
malformed (R104). -/
def State.target (s : State) (n : Byte) (a : Length) : Option Space :=
  match Space.ofNumber n with
  | some sp => if s.holds sp a then some sp else none
  | none => none

/-- `BufWrite(s, a, b)`: one byte and nothing else (R104). -/
def writeBuf (n : Byte) (a : Length) (b : Byte) (s : State) : Host.Outcome State Fault Refusal :=
  match s.target n a with
  | some sp => .next ((s.memWrite sp a.toNat [b]).respond .ok)
  | none => busError s

/-- `BufRead(s, a)` (R104). -/
def readBuf (n : Byte) (a : Length) (s : State) : Host.Outcome State Fault Refusal :=
  match s.target n a with
  | some sp => .next (s.respond (.value 8 (s.bufByte sp a.toNat)))
  | none => busError s

/-- `rd REG`: the value, and no state changes (R107, R65). -/
def readReg (r : Byte) (s : State) : Host.Outcome State Fault Refusal :=
  match Reg.ofNumber r with
  | some g => .next (s.respond (.value g.width (s.regValue g)))
  | none => busError s

/-- A value of the width a register number asks for has the width of the register it names (R85). -/
theorem regWidth_of_ofNumber {r : Byte} {g : Reg} (h : Reg.ofNumber r = some g) :
    regWidth r = g.width := by
  simp [regWidth, h]

/-- `Step` of R100 on one transaction: the new state, the response at the end of its responses. -/
def transact (t : Transaction) (s : State) : Host.Outcome State Fault Refusal :=
  match t with
  | .regWrite r v =>
    match h : Reg.ofNumber r with
    | some g => writeReg g (v.cast (regWidth_of_ofNumber h)) s
    | none => busError s
  | .regRead r => readReg r s
  | .bufWrite n a b => writeBuf n a b s
  | .bufRead n a => readBuf n a s

/-- Take the host's next event: a transaction (R100) or a reset (R230). With none pending the core is
idle and its state does not change (R100, R222). -/
def takeEvent (s : State) : Host.Outcome State Fault Refusal :=
  match s.inbox with
  | [] => .next s
  | .transaction t :: rest => transact t (s.setInbox rest)
  | .reset :: rest => .next (s.setInbox rest).afterReset

/-! ### The writable registers' transactions, as programs write them (30_encoding.md R85, R87) -/

/-- `wr CMD, op`. -/
def wrCmd (op : Byte) : Transaction := .regWrite 0x00#8 op

/-- `wr KEY, v`. -/
def wrKey (v : Block) : Transaction := .regWrite 0x03#8 v

/-- `wr IV, v`. -/
def wrIv (v : IvWord) : Transaction := .regWrite 0x04#8 v

/-- `wr ALEN, v`. -/
def wrAlen (v : Length) : Transaction := .regWrite 0x05#8 v

/-- `wr DLEN, v`. -/
def wrDlen (v : Length) : Transaction := .regWrite 0x06#8 v

/-- `wr TAG, v`. -/
def wrTag (v : Block) : Transaction := .regWrite 0x07#8 v

/-- `wr OPA, v`. -/
def wrOpa (v : Block) : Transaction := .regWrite 0x08#8 v

/-- `wr OPB, v`. -/
def wrOpb (v : Block) : Transaction := .regWrite 0x09#8 v

/-- `cmd MNEMONIC` expands to `wr CMD, Encode(MNEMONIC)` (30_encoding.md R88). -/
def cmd (i : Instr) : Transaction := wrCmd (encode i)

end Sys2Proof.Machine
end

