-- ==== Sys2Proof/Machine/Step.lean ====
section
/-! DEFINITION. One step of the machine: the host's next event, performed whole (spec
40_host_transactions.md R100, 20_memory.md R66, R67). -/

namespace Sys2Proof.Machine

/-- One step: the next host event. -/
def step (s : State) : Host.Outcome State Fault Refusal :=
  takeEvent s

/-- The core fetches nothing (10_state.md R22): an instruction is the byte of a `CMD` write. So the
next event becomes the host's write of the table word's byte to `CMD`; nothing else changes
(assumption log 1, 14). -/
def State.withFetchWord (s : State) (nbits w : Nat) : State :=
  s.setInbox (.transaction (wrCmd (BitVec.ofNat 8 (w % 2 ^ nbits))) :: s.inbox)

end Sys2Proof.Machine
end

