-- ==== Sys2Proof/Safety.lean ====
section
/-! DEFINITION. What the claims speak of: the invariants of the state (spec 10_state.md R29, R31, R33,
R36, R37) and the relations between two states that the frame and noninterference claims use. -/

namespace Sys2Proof.Machine

/-- `RKV = 1` implies `KEYV = 1` and `RK = KeyExpand(KEY)` (R29). -/
abbrev State.scheduleOk (s : State) : Prop :=
  s.rkv = true → s.keyv = true ∧ s.rk = keyExpand s.key

/-- A flag that is 0 goes with a zero register: nothing is retained (R29, R33, R197). -/
abbrev State.nothingRetained (s : State) : Prop :=
  (s.keyv = false → s.key = 0) ∧ (s.ivv = false → s.iv = 0) ∧
    (s.rkv = false → s.rk = Vector.replicate 11 0)

/-- Legal values of `ERR` are 0x00 to 0x05 (R31). -/
abbrev State.errLegal (s : State) : Prop := s.err.toNat ≤ 5

/-- The buffers are in canonical form and nothing is written outside them (R36, R66). -/
abbrev State.buffersOk (s : State) : Prop :=
  (s.abuf.wf ∧ s.abuf.inside s.abufSize) ∧ (s.ibuf.wf ∧ s.ibuf.inside s.dbufSize) ∧
    (s.obuf.wf ∧ s.obuf.inside s.dbufSize)

/-- The invariant of the machine. -/
structure State.Inv (s : State) : Prop where
  schedule : s.scheduleOk
  retained : s.nothingRetained
  err : s.errLegal
  buffers : s.buffersOk

/-- A step that goes on, which is every step of this machine (R235). -/
def State.StepsOn (s : State) : Prop := ∃ t, step s = .next t

/-- `t` is `s` but for the working registers, which no rule reads and whose values between commands are
unspecified (R34), and the index of their free values. -/
def SameButWorking (s t : State) : Prop :=
  t = { s with h := t.h, y := t.y, ctr := t.ctr, ej0 := t.ej0, releases := t.releases }

/-! ### The tables of 60_exceptions.md -/

/-- The valid flag a command needs is 0 (R213). -/
def State.Lacks (s : State) : Instr → Prop
  | .keyexp => s.keyv = false
  | .rkrd _ | .aesenc => s.rkv = false
  | .ctrxor => s.rkv = false ∨ s.ivv = false
  | .gcmenc | .gcmdec => s.keyv = false ∨ s.ivv = false
  | .gfmul | .ghash | .clr => False

/-- The text does not fit (R214). -/
def State.TextBad (s : State) : Prop :=
  s.dlen.toNat > s.dbufSize ∨ s.dlen.toNat ≥ 2 ^ 61

/-- The associated data do not fit (R214). -/
def State.AadBad (s : State) : Prop :=
  s.alen.toNat > s.abufSize ∨ s.alen.toNat ≥ 2 ^ 61

/-- A length register breaks a bound of the command (R214). -/
def State.LengthBad (s : State) : Instr → Prop
  | .ghash => s.TextBad ∨ s.dlen.toNat % 16 ≠ 0
  | .ctrxor => s.TextBad
  | .gcmenc | .gcmdec => s.AadBad ∨ s.TextBad
  | .keyexp | .rkrd _ | .aesenc | .gfmul | .clr => False

/-- The text of the command needs more than `2^32 - 2` blocks (R215). -/
def State.CounterBad (s : State) : Instr → Prop
  | .ctrxor | .gcmenc | .gcmdec => (s.dlen.toNat + 15) / 16 > 2 ^ 32 - 2
  | .keyexp | .rkrd _ | .aesenc | .gfmul | .ghash | .clr => False

/-- The command writes `OBUF[0 .. DLEN-1]` when it completes (R66). -/
def writesText : Instr → Bool
  | .ctrxor | .gcmenc | .gcmdec => true
  | .keyexp | .rkrd _ | .aesenc | .gfmul | .ghash | .clr => false

/-- The codes a command can end with (R210, the columns "code" and "raised by"). -/
def outcomes : Instr → List Byte
  | .gfmul | .clr => [0]
  | .keyexp | .rkrd _ | .aesenc => [0, 2]
  | .ghash => [0, 3]
  | .ctrxor | .gcmenc => [0, 2, 3, 4]
  | .gcmdec => [0, 2, 3, 4, 5]

/-- A transaction that is malformed in itself (R218). -/
def State.Malformed (s : State) : Transaction → Prop
  | .regWrite r _ => r = 0x01#8 ∨ r = 0x02#8 ∨ 0x0A ≤ r.toNat
  | .regRead r => 0x0B ≤ r.toNat
  | .bufWrite n a _ | .bufRead n a =>
    n.toNat > 2 ∨ (n = 0#8 ∧ a.toNat ≥ s.abufSize) ∨
      ((n = 1#8 ∨ n = 2#8) ∧ a.toNat ≥ s.dbufSize)

/-! ### The functions of the units, as the spec characterises them -/

/-- `Aff(b)`, the second half of the S-box formula (R122). -/
def affine (b : Byte) : Byte :=
  b ^^^ b.rotateLeft 1 ^^^ b.rotateLeft 2 ^^^ b.rotateLeft 3 ^^^ b.rotateLeft 4 ^^^ 0x63#8

/-- Word `w[i]` of a schedule: words `4r` to `4r+3` are round key `r`, in order (R126). -/
def wordOf (rk : Schedule) (i : Nat) : Word :=
  (roundKey rk (i / 4)).extractLsb' (32 * (3 - i % 4)) 32

/-- A counter-mode pass after its first `n` blocks: `CTR`, which is the counter of block `n`, and the
output so far (R182). -/
def ctrPrefix (rk : Schedule) (iv : IvWord) (d : List Byte) (n : Nat) : CtrAcc :=
  (List.range n).foldl (ctrStep rk iv d) { ctr := 2#32, out := [] }

/-- The bytes of an initialisation vector, first byte first (R24, R181). -/
def ivBytes (iv : IvWord) : List Byte :=
  (List.range 12).map fun k => iv.extractLsb' (8 * (11 - k)) 8

end Sys2Proof.Machine
end

