-- ==== Sys2Proof/Certificates/Slice0/Obligations.lean ====
section
/-! DEFINITION. The statements for the provers. A command's own effect is stated as the state it
answers; what is not named there is unchanged. Where working registers change, `SameButWorking` says
that nothing else does. A statement that reads a byte at every address says of an address at or above
the buffer's size, where the spec has no byte, what the model's total function answers (assumption log
17). -/

open Sys2Proof Sys2Proof.Machine

/-! ### Encoding -/

/-- Words written out from the opcode map, with the bytes just outside it (30_encoding.md R82 to
R84). -/
def Obligations.DecodeReadsTheOpcodeMap : Prop :=
  decode 0x01#8 = .ok .keyexp ∧ decode 0x02#8 = .ok .aesenc ∧ decode 0x03#8 = .ok .gfmul ∧
  decode 0x04#8 = .ok .ghash ∧ decode 0x05#8 = .ok .ctrxor ∧ decode 0x06#8 = .ok .gcmenc ∧
  decode 0x07#8 = .ok .gcmdec ∧ decode 0x08#8 = .ok .clr ∧ decode 0x10#8 = .ok (.rkrd 0#4) ∧
  decode 0x1A#8 = .ok (.rkrd 10#4) ∧ decode 0x00#8 = .error (.illegal 0x00#8) ∧
  decode 0x09#8 = .error (.illegal 0x09#8) ∧ decode 0x1B#8 = .error (.illegal 0x1B#8) ∧
  decode 0x20#8 = .error (.illegal 0x20#8) ∧ decode 0xFF#8 = .error (.illegal 0xFF#8)

/-- `Decode(Encode(c)) = c` for every command, and `Encode(Decode(b)) = b` for every legal byte
(30_encoding.md R83). -/
def Obligations.DecodeAndEncodeAgree : Prop :=
  (∀ i : Instr, i.WellFormed → decode (encode i) = .ok i) ∧
  (∀ (b : Byte) (i : Instr), decode b = .ok i → i.WellFormed ∧ encode i = b)

/-- The 237 illegal bytes: none decodes, and writing one to `CMD` reports `ERR_ILLEGAL`, changes
nothing else and is answered `Ok` (30_encoding.md R84, 40_host_transactions.md R105). -/
def Obligations.IllegalByteOnlyReports : Prop :=
  ∀ (s : State) (b : Byte),
    (b = 0x00#8 ∨ (0x09#8 ≤ b ∧ b ≤ 0x0F#8) ∨ (0x1B#8 ≤ b ∧ b ≤ 0x1F#8) ∨ 0x20#8 ≤ b) →
    decode b = .error (.illegal b) ∧
    transact (wrCmd b) s =
      .next { s with err := 0x01#8, responses := s.responses ++ [.ok] }

/-! ### Steps and transactions -/

/-- A step runs the command that the host's next `CMD` write encodes, on the state without that event,
and answers the write with `Ok` (40_host_transactions.md R100, R105). -/
def Obligations.StepRunsTheWrittenCommand : Prop :=
  ∀ (s : State) (b : Byte) (i : Instr) (rest : List HostEvent),
    s.inbox = .transaction (wrCmd b) :: rest → decode b = .ok i →
    step s = match exec i { s with inbox := rest } with
      | .next t => .next { t with responses := t.responses ++ [.ok] }
      | .fault f => .fault f
      | .refused r => .refused r

/-- With no event pending the state does not change: there is no step the core takes on its own
(40_host_transactions.md R100). That a step without an event is a next state is the model's choice
(assumption log 1). -/
def Obligations.IdleStepChangesNothing : Prop :=
  ∀ s : State, s.inbox = [] → step s = .next s

/-- Every event is taken whole: a transaction leaves the queue and gets exactly one response
(40_host_transactions.md R100, 20_memory.md R67). The queue and the list of responses are the model's
form (assumption log 1, 2). -/
def Obligations.EveryTransactionGetsOneResponse : Prop :=
  ∀ (s : State) (t : Transaction) (rest : List HostEvent),
    s.inbox = .transaction t :: rest →
    ∃ u r, step s = .next u ∧ u.inbox = rest ∧ u.responses = s.responses ++ [r]

/-- Every step goes on: no command and no transaction stops the machine (70_reset_and_hazards.md
R235). Three of the cases it takes in are the model's choices: the step with no event pending
(assumption log 1), the terms `RKRD 11` to `RKRD 15`, which no byte decodes to (assumption log 9), and
that the types of faults and refusals have nothing to offer here (assumption log 13). -/
def Obligations.EveryStepGoesOn : Prop :=
  (∀ s : State, s.StepsOn) ∧ ∀ (i : Instr) (s : State), ∃ t, exec i s = .next t

/-- The response to a `CMD` write is `Ok` in every case (40_host_transactions.md R105). -/
def Obligations.CmdWriteIsAnsweredOk : Prop :=
  ∀ (s : State) (b : Byte),
    ∃ t, transact (wrCmd b) s = .next t ∧ t.responses = s.responses ++ [.ok]

/-- `wr KEY, v` (40_host_transactions.md R101). -/
def Obligations.KeyWriteInvalidatesSchedule : Prop :=
  ∀ (s : State) (v : Block),
    transact (wrKey v) s =
      .next { s with
        key := v, keyv := true, rkv := false, rk := Vector.replicate 11 0
        responses := s.responses ++ [.ok] }

/-- `wr IV, v` (40_host_transactions.md R102). -/
def Obligations.IvWriteSetsIvv : Prop :=
  ∀ (s : State) (v : IvWord),
    transact (wrIv v) s =
      .next { s with iv := v, ivv := true, responses := s.responses ++ [.ok] }

/-- Writes to `ALEN`, `DLEN`, `TAG`, `OPA`, `OPB` store; writes to the read-only registers and to
numbers that name no register change nothing (40_host_transactions.md R103). -/
def Obligations.OperandWritesStore : Prop :=
  ∀ s : State,
    (∀ v : Length, transact (wrAlen v) s =
      .next { s with alen := v, responses := s.responses ++ [.ok] }) ∧
    (∀ v : Length, transact (wrDlen v) s =
      .next { s with dlen := v, responses := s.responses ++ [.ok] }) ∧
    (∀ v : Block, transact (wrTag v) s =
      .next { s with tag := v, responses := s.responses ++ [.ok] }) ∧
    (∀ v : Block, transact (wrOpa v) s =
      .next { s with opa := v, responses := s.responses ++ [.ok] }) ∧
    (∀ v : Block, transact (wrOpb v) s =
      .next { s with opb := v, responses := s.responses ++ [.ok] }) ∧
    (∀ (r : Byte) (v : BitVec (regWidth r)), (r = 0x01#8 ∨ r = 0x02#8 ∨ 0x0A#8 ≤ r) →
      transact (.regWrite r v) s = .next { s with responses := s.responses ++ [.busError] })

/-- Register reads (40_host_transactions.md R107): the value, and no state changes. -/
def Obligations.RegisterReadsReturnValues : Prop :=
  ∀ s : State,
    let answers (r : Byte) (a : Response) : Prop :=
      transact (.regRead r) s = .next { s with responses := s.responses ++ [a] }
    answers 0x00#8 (.value 8 0x00#8) ∧
    answers 0x01#8 (.value 8 ((BitVec.ofBool s.keyv).setWidth 8 +
      2#8 * (BitVec.ofBool s.ivv).setWidth 8 + 4#8 * (BitVec.ofBool s.rkv).setWidth 8)) ∧
    answers 0x02#8 (.value 8 s.err) ∧ answers 0x03#8 (.value 128 s.key) ∧
    answers 0x04#8 (.value 96 s.iv) ∧ answers 0x05#8 (.value 64 s.alen) ∧
    answers 0x06#8 (.value 64 s.dlen) ∧ answers 0x07#8 (.value 128 s.tag) ∧
    answers 0x08#8 (.value 128 s.opa) ∧ answers 0x09#8 (.value 128 s.opb) ∧
    answers 0x0A#8 (.value 128 s.res) ∧
    ∀ r : Byte, 0x0B#8 ≤ r → answers r .busError

/-- `STATUS`: bits 0, 1, 2 are the flags, bits 7:3 read as 0, and a write is a bus error that changes
nothing (10_state.md R30). -/
def Obligations.StatusShowsTheFlags : Prop :=
  ∀ s : State,
    s.status.getLsbD 0 = s.keyv ∧ s.status.getLsbD 1 = s.ivv ∧ s.status.getLsbD 2 = s.rkv ∧
    (∀ k, 3 ≤ k → s.status.getLsbD k = false) ∧
    transact (.regRead 0x01#8) s =
      .next { s with responses := s.responses ++ [.value 8 s.status] } ∧
    ∀ v : BitVec (regWidth 0x01#8), transact (.regWrite 0x01#8 v) s =
      .next { s with responses := s.responses ++ [.busError] }

/-- A buffer write changes one byte and nothing else, a buffer read answers one byte and changes
nothing, and both are bus errors outside the buffer (40_host_transactions.md R104). -/
def Obligations.BufferAccessMovesOneByte : Prop :=
  ∀ (s : State) (n : Byte) (a : Length) (b : Byte),
    (∀ sp : Space, Space.number sp = n → a.toNat < s.bufSize sp →
      transact (.bufRead n a) s =
        .next { s with responses := s.responses ++ [.value 8 (s.bufByte sp a.toNat)] } ∧
      ∃ t, transact (.bufWrite n a b) s = .next t ∧
        t = { s with
          abuf := t.abuf, ibuf := t.ibuf, obuf := t.obuf, responses := s.responses ++ [.ok] } ∧
        (∀ sp2 : Space, sp2 ≠ sp → t.buf sp2 = s.buf sp2) ∧
        ∀ x, t.bufByte sp x = if x = a.toNat then b else s.bufByte sp x) ∧
    ((∀ sp : Space, Space.number sp = n → s.bufSize sp ≤ a.toNat) →
      transact (.bufRead n a) s = .next { s with responses := s.responses ++ [.busError] } ∧
      transact (.bufWrite n a b) s = .next { s with responses := s.responses ++ [.busError] })

/-- A transaction is answered `BusError` exactly when it is malformed in itself, and then no state
changes, `ERR` included (60_exceptions.md R218). -/
def Obligations.BusErrorExactlyWhenMalformed : Prop :=
  ∀ (s : State) (x : Transaction),
    (s.Malformed x →
      transact x s = .next { s with responses := s.responses ++ [.busError] }) ∧
    (¬ s.Malformed x →
      ∃ t r, transact x s = .next t ∧ t.responses = s.responses ++ [r] ∧ r ≠ .busError)

/-- Host transactions that are not commands do not change `ERR` (10_state.md R31). -/
def Obligations.OnlyCommandsWriteErr : Prop :=
  ∀ (s t : State) (x : Transaction), (∀ b : Byte, x ≠ wrCmd b) →
    transact x s = .next t → t.err = s.err

/-! ### Reset -/

/-- The reset values of 10_state.md R38, for every capacity: every register, flag and round key that R38
gives a value, and buffers of which every byte holds the unspecified content. That content is a free
value, the model's form of R38's "unspecified" (assumption log 4). -/
def Obligations.ResetValues : Prop :=
  ∀ asize dsize : Nat,
    let s := State.resetWith asize dsize
    s.key = 0 ∧ s.iv = 0 ∧ s.alen = 0 ∧ s.dlen = 0 ∧ s.tag = 0 ∧ s.opa = 0 ∧ s.opb = 0 ∧
    s.res = 0 ∧ s.keyv = false ∧ s.ivv = false ∧ s.rkv = false ∧ s.status = 0x00#8 ∧
    s.err = 0x00#8 ∧ (∀ r < 11, roundKey s.rk r = 0) ∧ s.abufSize = asize ∧ s.dbufSize = dsize ∧
    ∀ sp a, s.bufByte sp a = Config.resetByte 0 sp a

/-- A reset event gives every register, flag and round key its reset value and leaves every buffer byte
unspecified (70_reset_and_hazards.md R230). That unspecified bytes are free values with a new index, so
that nothing is known to survive, is the model's form (assumption log 4). That the remaining events, the
earlier responses and the capacities survive the reset is the model's inference (assumption log 15). -/
def Obligations.ResetEventClearsTheCore : Prop :=
  ∀ (s : State) (rest : List HostEvent), s.inbox = .reset :: rest →
    ∃ t, step s = .next t ∧
      SameButWorking
        { State.resetWith s.abufSize s.dbufSize with
          resets := s.resets + 1, inbox := rest, responses := s.responses } t ∧
      ∀ sp a, t.bufByte sp a = Config.resetByte (s.resets + 1) sp a

/-! ### The commands -/

/-- `KEYEXP` (41_key_schedule.md R127). -/
def Obligations.KeyexpExpandsTheKey : Prop :=
  decode 0x01#8 = .ok .keyexp ∧
  ∀ s : State,
    (s.keyv = true →
      exec .keyexp s = .next { s with rk := keyExpand s.key, rkv := true, err := 0x00#8 }) ∧
    (s.keyv = false → exec .keyexp s = .next { s with err := 0x02#8 })

/-- `RKRD n` (41_key_schedule.md R128), and the bytes 0x1B to 0x1F, which are illegal before any flag is
looked at. -/
def Obligations.RkrdCopiesARoundKey : Prop :=
  (∀ n : BitVec 4, n.toNat ≤ 10 → decode (BitVec.ofNat 8 (0x10 + n.toNat)) = .ok (.rkrd n) ∧
    ∀ s : State,
      (s.rkv = true → ∃ k, s.rk[n.toNat]? = some k ∧
        exec (.rkrd n) s = .next { s with res := k, err := 0x00#8 }) ∧
      (s.rkv = false → exec (.rkrd n) s = .next { s with err := 0x02#8 })) ∧
  ∀ (s : State) (b : Byte), 0x1B#8 ≤ b → b ≤ 0x1F#8 →
    transact (wrCmd b) s =
      .next { s with err := 0x01#8, responses := s.responses ++ [.ok] }

/-- `AESENC` (42_block_transform.md R146). -/
def Obligations.AesencEncryptsOpa : Prop :=
  decode 0x02#8 = .ok .aesenc ∧
  ∀ s : State,
    (s.rkv = true →
      exec .aesenc s = .next { s with res := blockTransform s.rk s.opa, err := 0x00#8 }) ∧
    (s.rkv = false → exec .aesenc s = .next { s with err := 0x02#8 })

/-- `GFMUL` always completes and writes the product of `OPA` and `OPB` (43_gf_multiplier.md R162). -/
def Obligations.GfmulWritesTheProduct : Prop :=
  decode 0x03#8 = .ok .gfmul ∧
  ∀ s : State, exec .gfmul s = .next { s with res := gfMul s.opa s.opb, err := 0x00#8 }

/-- `GHASH` (44_ghash.md R172): within the length bounds it writes the digest of `IBUF[0 .. DLEN-1]`
under `OPB`; otherwise it is refused. -/
def Obligations.GhashDigestsTheText : Prop :=
  ∀ s : State,
    (s.dlen.toNat ≤ s.dbufSize → s.dlen.toNat < 2 ^ 61 → s.dlen.toNat % 16 = 0 →
      ∃ t, exec .ghash s = .next t ∧
        SameButWorking
          { s with res := ghash (s.memRead .ibuf 0 s.dlen.toNat) s.opb, err := 0x00#8 } t) ∧
    (s.dlen.toNat > s.dbufSize ∨ s.dlen.toNat ≥ 2 ^ 61 ∨ s.dlen.toNat % 16 ≠ 0 →
      exec .ghash s = .next { s with err := 0x03#8 })

/-- `CTRXOR` completes under its conditions: byte `k` of `OBUF`, for `k` below `DLEN`, is byte `k` of
`IBUF` xor byte `k mod 16` of the keystream block with counter `2 + k div 16`; the other bytes of `OBUF`
are unchanged (45_counter_mode.md R182, R185). -/
def Obligations.CtrxorWritesKeystreamText : Prop :=
  ∀ s : State, s.rkv = true → s.ivv = true → s.dlen.toNat ≤ s.dbufSize →
    s.dlen.toNat < 2 ^ 61 → (s.dlen.toNat + 15) / 16 ≤ 2 ^ 32 - 2 →
    ∃ t, exec .ctrxor s = .next t ∧
      SameButWorking { s with obuf := t.obuf, err := 0x00#8 } t ∧
      ∀ k, t.bufByte .obuf k =
        if k < s.dlen.toNat then
          s.bufByte .ibuf k ^^^
            blockByte (blockTransform s.rk (counterBlock s.iv (BitVec.ofNat 32 (2 + k / 16)))) (k % 16)
        else s.bufByte .obuf k

/-- `GCMENC` completes under its conditions: `OBUF[0 .. DLEN-1]` and `TAG` are `GcmEncrypt` of the key,
IV, associated data and text, and the key material is discarded (46_gcm.md R195). -/
def Obligations.GcmencIsGcmEncrypt : Prop :=
  ∀ s : State, s.keyv = true → s.ivv = true → s.alen.toNat ≤ s.abufSize →
    s.alen.toNat < 2 ^ 61 → s.dlen.toNat ≤ s.dbufSize → s.dlen.toNat < 2 ^ 61 →
    (s.dlen.toNat + 15) / 16 ≤ 2 ^ 32 - 2 →
    let r := gcmEncrypt s.key s.iv (s.memRead .abuf 0 s.alen.toNat) (s.memRead .ibuf 0 s.dlen.toNat)
    r.1.length = s.dlen.toNat ∧
    ∃ t, exec .gcmenc s = .next t ∧
      SameButWorking
        { s with
          key := 0, iv := 0, rk := Vector.replicate 11 0, keyv := false, ivv := false, rkv := false
          tag := r.2, obuf := t.obuf, err := 0x00#8 } t ∧
      ∀ k, t.bufByte .obuf k = if k < s.dlen.toNat then r.1.getD k 0 else s.bufByte .obuf k

/-- `GCMDEC` runs under its conditions: with a matching tag `OBUF[0 .. DLEN-1]` is the plaintext of
`GcmDecrypt` and `ERR = 0x00`; with another tag `ERR = 0x05` and `OBUF` is not written; in both cases
the key material is discarded and nothing else changes (46_gcm.md R196). -/
def Obligations.GcmdecIsGcmDecrypt : Prop :=
  ∀ s : State, s.keyv = true → s.ivv = true → s.alen.toNat ≤ s.abufSize →
    s.alen.toNat < 2 ^ 61 → s.dlen.toNat ≤ s.dbufSize → s.dlen.toNat < 2 ^ 61 →
    (s.dlen.toNat + 15) / 16 ≤ 2 ^ 32 - 2 →
    let discarded : State :=
      { s with
        key := 0, iv := 0, rk := Vector.replicate 11 0, keyv := false, ivv := false, rkv := false }
    (∀ p, gcmDecrypt s.key s.iv (s.memRead .abuf 0 s.alen.toNat)
          (s.memRead .ibuf 0 s.dlen.toNat) s.tag = .plaintext p →
      p.length = s.dlen.toNat ∧
      ∃ t, exec .gcmdec s = .next t ∧
        SameButWorking { discarded with obuf := t.obuf, err := 0x00#8 } t ∧
        ∀ k, t.bufByte .obuf k = if k < s.dlen.toNat then p.getD k 0 else s.bufByte .obuf k) ∧
    (gcmDecrypt s.key s.iv (s.memRead .abuf 0 s.alen.toNat)
          (s.memRead .ibuf 0 s.dlen.toNat) s.tag = .authenticationFailure →
      ∃ t, exec .gcmdec s = .next t ∧ SameButWorking { discarded with err := 0x05#8 } t)

/-- `CLR`: every register and flag takes its reset value, the buffers are not changed
(40_host_transactions.md R106). -/
def Obligations.ClrRestoresResetValues : Prop :=
  decode 0x08#8 = .ok .clr ∧
  ∀ s : State, ∃ t, exec .clr s = .next t ∧
    SameButWorking
      { s with
        key := 0, iv := 0, alen := 0, dlen := 0, tag := 0, opa := 0, opb := 0, res := 0
        rk := Vector.replicate 11 0, keyv := false, ivv := false, rkv := false, err := 0x00#8 } t

/-! ### Rules over all commands -/

/-- A command tests its conditions in the fixed order precondition, length, counter, and is refused
with the first that fails; with none failing it is not refused (60_exceptions.md R213 to R215,
R217). -/
def Obligations.RefusalsComeInFixedOrder : Prop :=
  ∀ (i : Instr) (s : State), i.WellFormed →
    (s.Lacks i → exec i s = .next { s with err := 0x02#8 }) ∧
    (¬ s.Lacks i → s.LengthBad i → exec i s = .next { s with err := 0x03#8 }) ∧
    (¬ s.Lacks i → ¬ s.LengthBad i → s.CounterBad i → exec i s = .next { s with err := 0x04#8 }) ∧
    (¬ s.Lacks i → ¬ s.LengthBad i → ¬ s.CounterBad i →
      ∃ t, exec i s = .next t ∧ (t.err = 0x00#8 ∨ i = .gcmdec ∧ t.err = 0x05#8))

/-- A refusal changes no register other than `ERR`, no flag, no round key and no buffer byte
(60_exceptions.md R212). -/
def Obligations.RefusalChangesOnlyErr : Prop :=
  ∀ (i : Instr) (s t : State), exec i s = .next t →
    t.err = 0x01#8 ∨ t.err = 0x02#8 ∨ t.err = 0x03#8 ∨ t.err = 0x04#8 →
    t = { s with err := t.err }

/-- Each command ends with one of the outcome codes the table gives it (60_exceptions.md R210). -/
def Obligations.OutcomesAreTheTabledCodes : Prop :=
  ∀ (i : Instr) (s t : State), i.WellFormed → exec i s = .next t → t.err ∈ outcomes i

/-- `ERR_CTR` is only reachable with a text buffer larger than 68719476704 bytes (60_exceptions.md
R215). -/
def Obligations.CounterErrorNeedsALargeBuffer : Prop :=
  ∀ (i : Instr) (s t : State), exec i s = .next t → t.err = 0x04#8 → s.dbufSize > 68719476704

/-- After `GCMENC` or `GCMDEC` has run, whether the tag matched or not, no key material is left
(10_state.md R37 item e, 46_gcm.md R197). -/
def Obligations.NoKeyMaterialAfterACall : Prop :=
  ∀ (i : Instr) (s t : State), i = .gcmenc ∨ i = .gcmdec → exec i s = .next t →
    t.err = 0x00#8 ∨ t.err = 0x05#8 →
    t.keyv = false ∧ t.ivv = false ∧ t.rkv = false ∧ t.key = 0 ∧ t.iv = 0 ∧
    ∀ r < 11, roundKey t.rk r = 0

/-- No command but `CLR` changes a length register or an operand register, none changes `ABUF` or
`IBUF`, and only a discard or `CLR` changes `KEY` or `IV` (10_state.md R37 item a). -/
def Obligations.OperandsSurviveCommands : Prop :=
  ∀ (i : Instr) (s t : State), exec i s = .next t →
    (∀ a, t.bufByte .abuf a = s.bufByte .abuf a) ∧ (∀ a, t.bufByte .ibuf a = s.bufByte .ibuf a) ∧
    (i ≠ .clr → t.alen = s.alen ∧ t.dlen = s.dlen ∧ t.opa = s.opa ∧ t.opb = s.opb) ∧
    (i ≠ .clr → i ≠ .gcmenc → i ≠ .gcmdec →
      t.key = s.key ∧ t.iv = s.iv ∧ t.keyv = s.keyv ∧ t.ivv = s.ivv)

/-- A command writes only `OBUF[0 .. DLEN-1]`, and only `CTRXOR`, `GCMENC` and `GCMDEC` write there
(20_memory.md R66). -/
def Obligations.OnlyTheTextAreaIsWritten : Prop :=
  ∀ (i : Instr) (s t : State), exec i s = .next t →
    (∀ a, s.dlen.toNat ≤ a → t.bufByte .obuf a = s.bufByte .obuf a) ∧
    (i ≠ .ctrxor → i ≠ .gcmenc → i ≠ .gcmdec → t.obuf = s.obuf)

/-- A command never reads a buffer byte at or beyond `ALEN` and `DLEN`: with other contents there its
outcome is the same (20_memory.md R66). -/
def Obligations.BytesBeyondTheLengthsAreNotRead : Prop :=
  ∀ (i : Instr) (s t : State) (m n : Memory),
    (∀ a < s.alen.toNat, State.bufByte { s with abuf := m, ibuf := n } .abuf a = s.bufByte .abuf a) →
    (∀ a < s.dlen.toNat, State.bufByte { s with abuf := m, ibuf := n } .ibuf a = s.bufByte .ibuf a) →
    exec i s = .next t →
    exec i { s with abuf := m, ibuf := n } = .next { t with abuf := m, ibuf := n }

/-- No command reads `OBUF`: with other contents there, everything else comes out the same, and so do
the bytes the command writes to `OBUF`; every other byte of `OBUF` keeps the other contents
(40_host_transactions.md R104, 20_memory.md R66). -/
def Obligations.OutputBufferIsNotRead : Prop :=
  ∀ (i : Instr) (s t : State) (m : Memory), exec i s = .next t →
    ∃ u, exec i { s with obuf := m } = .next u ∧ u = { t with obuf := u.obuf } ∧
      ∀ a, u.bufByte .obuf a =
        if writesText i ∧ t.err = 0x00#8 ∧ a < s.dlen.toNat then t.bufByte .obuf a
        else State.bufByte { s with obuf := m } .obuf a

/-- Every command writes a working register before it reads it: their values at its start make no
difference to anything else (10_state.md R34). -/
def Obligations.WorkingRegistersAreNotRead : Prop :=
  ∀ (i : Instr) (s t : State) (h y ej0 : Block) (ctr : Word), exec i s = .next t →
    ∃ t', exec i { s with h := h, y := y, ctr := ctr, ej0 := ej0 } = .next t' ∧ SameButWorking t t'

/-- After a failed `GCMDEC` nothing in the state but `TAG` depends on the tag that was offered
(60_exceptions.md R216). -/
def Obligations.FailedDecryptionRevealsNothing : Prop :=
  ∀ (s t t' : State) (tag : Block),
    exec .gcmdec s = .next t → t.err = 0x05#8 →
    exec .gcmdec { s with tag := tag } = .next t' → t'.err = 0x05#8 → t' = { t with tag := tag }

/-- Where `GCMDEC` accepts a tag it rejects every other one, and then `OBUF` is not written
(46_gcm.md R196). -/
def Obligations.AnyOtherTagIsRejected : Prop :=
  ∀ (s t : State) (tag : Block), exec .gcmdec s = .next t → t.err = 0x00#8 → tag ≠ s.tag →
    ∃ t', exec .gcmdec { s with tag := tag } = .next t' ∧ t'.err = 0x05#8 ∧ t'.tag = tag ∧
      t'.obuf = s.obuf ∧ t'.res = s.res

/-! ### Invariants -/

/-- Every step keeps the invariant: a valid schedule is `KeyExpand(KEY)` of a valid key, an invalid
register holds zero, `ERR` is a legal code, and the buffers are canonical and inside their bounds
(10_state.md R29, R31, R33, R36). -/
def Obligations.EveryStepKeepsTheInvariant : Prop :=
  ∀ s t : State, s.Inv → step s = .next t → t.Inv

/-- The invariant holds right after reset, for every capacity. -/
def Obligations.ResetMeetsTheInvariant : Prop :=
  (∀ asize dsize : Nat, (State.resetWith asize dsize).Inv) ∧ State.reset.Inv

/-- The capacities are constants of the machine: no step changes them (10_state.md R21). -/
def Obligations.CapacitiesNeverChange : Prop :=
  ∀ s t : State, step s = .next t → t.abufSize = s.abufSize ∧ t.dbufSize = s.dbufSize

/-! ### What the units compute -/

/-- The S-box table is the formula `Aff(Inv(a))`, a permutation, and has no fixed point
(41_key_schedule.md R121, R122). -/
def Obligations.SboxTableIsTheFormula : Prop :=
  sbox 0x00#8 = affine 0x00#8 ∧
  (∀ a : Byte, a ≠ 0 → ∃ b, gf8Mul a b = 0x01#8 ∧ (∀ c, gf8Mul a c = 0x01#8 → c = b) ∧
    sbox a = affine b) ∧
  (∀ a b : Byte, sbox a = sbox b → a = b) ∧ ∀ a : Byte, sbox a ≠ a

/-- The schedule as a recurrence on its 44 words, and round key 0 is the key (41_key_schedule.md
R126). -/
def Obligations.KeyExpandFollowsTheWordRecurrence : Prop :=
  ∀ k : Block,
    roundKey (keyExpand k) 0 = k ∧
    ∀ i, 4 ≤ i → i < 44 →
      wordOf (keyExpand k) i =
        wordOf (keyExpand k) (i - 4) ^^^
          (if i % 4 = 0 then
            subWord (rotWord (wordOf (keyExpand k) (i - 1))) ^^^ rconWord (i / 4)
          else wordOf (keyExpand k) (i - 1))

/-- The four operations of a round, byte by byte (42_block_transform.md R141 to R144). -/
def Obligations.RoundOperationsByByte : Prop :=
  ∀ s k : Block,
    (∀ i < 16, blockByte (subBytes s) i = sbox (blockByte s i)) ∧
    (∀ r < 4, ∀ c < 4, blockByte (shiftRows s) (r + 4 * c) = blockByte s (r + 4 * ((c + r) % 4))) ∧
    (∀ c < 4,
      let a0 := blockByte s (4 * c); let a1 := blockByte s (4 * c + 1)
      let a2 := blockByte s (4 * c + 2); let a3 := blockByte s (4 * c + 3)
      blockByte (mixColumns s) (4 * c) = xtime a0 ^^^ (xtime a1 ^^^ a1) ^^^ a2 ^^^ a3 ∧
      blockByte (mixColumns s) (4 * c + 1) = a0 ^^^ xtime a1 ^^^ (xtime a2 ^^^ a2) ^^^ a3 ∧
      blockByte (mixColumns s) (4 * c + 2) = a0 ^^^ a1 ^^^ xtime a2 ^^^ (xtime a3 ^^^ a3) ∧
      blockByte (mixColumns s) (4 * c + 3) = (xtime a0 ^^^ a0) ^^^ a1 ^^^ a2 ^^^ xtime a3) ∧
    (∀ i < 16, blockByte (addRoundKey s k) i = blockByte s i ^^^ blockByte k i)

/-- For a fixed schedule the Block Transform is a bijection on blocks (42_block_transform.md R145). -/
def Obligations.BlockTransformIsABijection : Prop :=
  ∀ rk : Schedule, Function.Bijective (blockTransform rk)

/-- Zero and the identity of GF(2^128), on both sides (43_gf_multiplier.md R160, R162). -/
def Obligations.GfMulZeroAndOne : Prop :=
  ∀ x : Block,
    gfMul 0 x = 0 ∧ gfMul x 0 = 0 ∧
    gfMul (0x80#8 ++ 0#120) x = x ∧ gfMul x (0x80#8 ++ 0#120) = x

/-- Multiplication distributes over addition on both sides (43_gf_multiplier.md R160, R161). -/
def Obligations.GfMulDistributes : Prop :=
  ∀ x y z : Block,
    gfMul (x ^^^ y) z = gfMul x z ^^^ gfMul y z ∧ gfMul x (y ^^^ z) = gfMul x y ^^^ gfMul x z

/-- Multiplication commutes, though the loop treats its arguments differently (43_gf_multiplier.md
R162). -/
def Obligations.GfMulCommutes : Prop :=
  ∀ x y : Block, gfMul x y = gfMul y x

/-- The GHASH fold on no chunk, one chunk, one more chunk at the end, and a leading zero chunk
(44_ghash.md R171). -/
def Obligations.GhashFoldsInOrder : Prop :=
  ∀ (h : Block) (d c : List Byte), d.length % 16 = 0 → c.length = 16 →
    ghash [] h = 0 ∧ ghash c h = gfMul (blockOfBytes c) h ∧
    ghash (d ++ c) h = gfMul (ghash d h ^^^ blockOfBytes c) h ∧
    ghash (zeros 16 ++ d) h = ghash d h

/-- The successor of the counter wraps to 1 and is never 0 (45_counter_mode.md R183). -/
def Obligations.CounterWrapsToOne : Prop :=
  inc32 0xFFFFFFFF#32 = 1#32 ∧ (∀ c : Word, c ≠ 0xFFFFFFFF#32 → (inc32 c).toNat = c.toNat + 1) ∧
  ∀ c : Word, inc32 c ≠ 0#32

/-- The bytes of a counter block: the IV, then the counter, most significant byte first
(45_counter_mode.md R181). -/
def Obligations.CounterBlockBytes : Prop :=
  ∀ (iv : IvWord) (c : Word), blockBytes (counterBlock iv c) = ivBytes iv ++ be32 c.toNat

/-- Within the bound the values of `CTR` in a counter-mode pass are `2, 3, …`: block `n` is encrypted with
the keystream block of counter `2 + n`, all these counters are different, and none is 0 or the counter 1
of J0 (45_counter_mode.md R184, 10_state.md R37 item c). `ctrPrefix` is the pass after its first blocks,
and the whole pass is the one after all of them. -/
def Obligations.CountersOfAPassAreDistinct : Prop :=
  ∀ (rk : Schedule) (iv : IvWord) (d : List Byte), ceil16 d.length ≤ 2 ^ 32 - 2 →
    ctrRun rk iv d = ctrPrefix rk iv d (ceil16 d.length) ∧
    ∀ n < ceil16 d.length,
      (ctrPrefix rk iv d (n + 1)).out = (ctrPrefix rk iv d n).out ++
        xorBytes (piece d n)
          (blockBytes (blockTransform rk (counterBlock iv (ctrPrefix rk iv d n).ctr))) ∧
      (ctrPrefix rk iv d n).ctr.toNat = 2 + n ∧
      (ctrPrefix rk iv d n).ctr ≠ 0#32 ∧ (ctrPrefix rk iv d n).ctr ≠ 1#32 ∧
      ∀ m < n, (ctrPrefix rk iv d m).ctr ≠ (ctrPrefix rk iv d n).ctr

/-- Counter mode in closed form (45_counter_mode.md R182): as long as the input, and byte `k` is the
input's byte `k` xor byte `k mod 16` of the keystream block with counter `2 + k div 16`. -/
def Obligations.CounterModeInClosedForm : Prop :=
  ∀ (rk : Schedule) (iv : IvWord) (d : List Byte), (d.length + 15) / 16 ≤ 2 ^ 32 - 2 →
    (ctrXor rk iv d).length = d.length ∧
    ∀ k < d.length,
      (ctrXor rk iv d).getD k 0 =
        d.getD k 0 ^^^
          blockByte (blockTransform rk (counterBlock iv (BitVec.ofNat 32 (2 + k / 16)))) (k % 16)

/-- Counter mode is its own inverse (45_counter_mode.md R180, R185). For a text of more than `2^32 - 2`
blocks, where R182 defines no `CtrXor`, it speaks of the model's total function only (assumption log
17). -/
def Obligations.CounterModeIsSelfInverse : Prop :=
  ∀ (rk : Schedule) (iv : IvWord) (d : List Byte), ctrXor rk iv (ctrXor rk iv d) = d

/-- The shape of the authenticator input: its length, the padding, and the two bit lengths at the end
(46_gcm.md R190). For a string of `2^61` bytes or more, where R190 and R10 define nothing, it speaks of
the model's total functions only, which take the bit length modulo `2^64` (assumption log 17). -/
def Obligations.AuthenticatorInputShape : Prop :=
  ∀ a c : List Byte,
    (authInput a c).length = 16 * (ceil16 a.length + ceil16 c.length + 1) ∧
    (∀ k < a.length, (authInput a c).getD k 0 = a.getD k 0) ∧
    (∀ k, a.length ≤ k → k < 16 * ceil16 a.length → (authInput a c).getD k 0 = 0) ∧
    (∀ k < c.length, (authInput a c).getD (16 * ceil16 a.length + k) 0 = c.getD k 0) ∧
    (∀ k, c.length ≤ k → k < 16 * ceil16 c.length →
      (authInput a c).getD (16 * ceil16 a.length + k) 0 = 0) ∧
    (authInput a c).drop (16 * (ceil16 a.length + ceil16 c.length)) =
      be64 (8 * a.length) ++ be64 (8 * c.length) ∧
    authInput [] [] = zeros 16

/-- With no associated data and no text the tag is the encrypted J0 (46_gcm.md R195). -/
def Obligations.TagOfTheEmptyMessage : Prop :=
  ∀ (rk : Schedule) (iv : IvWord),
    gcmTag rk iv [] [] = blockTransform rk (counterBlock iv 1#32)

/-- Decrypting what was encrypted gives the plaintext back (46_gcm.md R194). For texts beyond the bounds
of R193, where the spec defines neither function, it speaks of the model's total functions only
(assumption log 17). -/
def Obligations.DecryptionUndoesEncryption : Prop :=
  ∀ (key : Block) (iv : IvWord) (a p : List Byte),
    gcmDecrypt key iv a (gcmEncrypt key iv a p).1 (gcmEncrypt key iv a p).2 = .plaintext p

/-- `GCMENC`, then the host moving the output back and writing the same key and IV again, then `GCMDEC`
gives the text back with `ERR = 0x00` (46_gcm.md R194, R195, R196). -/
def Obligations.GcmdecRestoresWhatGcmencHid : Prop :=
  ∀ (s t u : State), exec .gcmenc s = .next t → t.err = 0x00#8 →
    u = { t with key := s.key, keyv := true, iv := s.iv, ivv := true, ibuf := u.ibuf } →
    (∀ k < s.dlen.toNat, u.bufByte .ibuf k = t.bufByte .obuf k) →
    ∃ w, exec .gcmdec u = .next w ∧ w.err = 0x00#8 ∧
      ∀ k < s.dlen.toNat, w.bufByte .obuf k = s.bufByte .ibuf k

/-! ### The envelope -/

/-- The host's queue and the list of responses are outside the core's state: no command reads or writes
them (10_state.md R20, R35). That they stand beside it in one record is the model's form (assumption
log 1, 2, 16). -/
def Obligations.CommandsSeeOnlyTheCore : Prop :=
  ∀ (i : Instr) (s t : State) (q : List HostEvent) (l : List Response), exec i s = .next t →
    t.inbox = s.inbox ∧ t.responses = s.responses ∧
    exec i { s with inbox := q, responses := l } = .next { t with inbox := q, responses := l }
end

