-- ==== Sys2Proof/Laws/Bytes.lean ====
section
/-! SUPPORT. Blocks as byte strings, and pieces of messages. -/

namespace Sys2Proof.Machine

/-- Bit `k` of byte `i` of a block (spec 00_scope.md R11). -/
theorem getLsbD_blockByte (s : Block) (i k : Nat) :
    (blockByte s i).getLsbD k = (decide (k < 8) && s.getLsbD (8 * (15 - i) + k)) := by
  simp [blockByte, BitVec.getLsbD_extractLsb']

/-- Byte `i` of a block given by its bytes. -/
theorem blockByte_blockOfFn (f : Nat → Byte) {i : Nat} (hi : i < 16) :
    blockByte (blockOfFn f) i = f i := by
  apply BitVec.eq_of_getLsbD_eq
  intro k hk
  rw [getLsbD_blockByte]
  unfold blockOfFn
  simp only [BitVec.getLsbD_append]
  interval_cases i <;> interval_cases k <;> rfl

/-- Two blocks with the same bytes are the same block. -/
theorem block_ext {s t : Block} (h : ∀ i < 16, blockByte s i = blockByte t i) : s = t := by
  apply BitVec.eq_of_getLsbD_eq
  intro j hj
  have h1 := congrArg (fun b => b.getLsbD (j % 8)) (h (15 - j / 8) (by omega))
  simp only [getLsbD_blockByte] at h1
  have e : 8 * (15 - (15 - j / 8)) + j % 8 = j := by omega
  have e2 : j % 8 < 8 := Nat.mod_lt _ (by decide)
  simpa [e, e2] using h1

@[simp] theorem blockByte_xor (s t : Block) (i : Nat) :
    blockByte (s ^^^ t) i = blockByte s i ^^^ blockByte t i := by
  apply BitVec.eq_of_getLsbD_eq
  intro k hk
  simp only [BitVec.getLsbD_xor, getLsbD_blockByte]
  cases decide (k < 8) <;> simp

@[simp] theorem length_blockBytes (s : Block) : (blockBytes s).length = 16 := by simp [blockBytes]

theorem getElem?_blockBytes (s : Block) (k : Nat) :
    (blockBytes s)[k]? = if k < 16 then some (blockByte s k) else none := by
  unfold blockBytes
  split <;> simp_all

@[simp] theorem length_zeros (n : Nat) : (zeros n).length = n := by simp [zeros]

@[simp] theorem length_be64 (n : Nat) : (be64 n).length = 8 := by simp [be64]

@[simp] theorem length_xorBytes (a b : List Byte) :
    (xorBytes a b).length = min a.length b.length := by simp [xorBytes]

theorem length_piece (d : List Byte) (j : Nat) : (piece d j).length = min 16 (d.length - 16 * j) := by
  simp [piece]

/-- Byte `k` of piece `j` of a message is byte `16 * j + k` of the message. -/
theorem getElem?_piece (d : List Byte) (j : Nat) {k : Nat} (hk : k < 16) :
    (piece d j)[k]? = d[16 * j + k]? := by
  simp [piece, hk]

end Sys2Proof.Machine
end

