-- ==== Sys2Proof/Laws/State.lean ====
section
/-! SUPPORT. What each named update of the state does to each field and to what the commands read of
the state, so that no later proof unfolds a record update. -/

namespace Sys2Proof.Machine

/-- A refusal only reports (spec 60_exceptions.md R212). -/
@[simp] theorem State.refuse_eq (s : State) (e : ErrCode) : s.refuse e = s.report e := rfl

/-- A completed command reports `OK` (spec 60_exceptions.md R210). -/
@[simp] theorem State.complete_eq (s : State) : s.complete = s.report .ok := rfl

/-- Discarding is zeroing the key material and releasing the working registers (spec 46_gcm.md R197). -/
@[simp] theorem State.discard_eq (s : State) : s.discard = s.zeroKeys.releaseWorking := rfl

/-! ### The state after reset (spec 10_state.md R38) -/

@[simp] theorem CoreState.reset_key : CoreState.reset.key = 0 := rfl
@[simp] theorem CoreState.reset_iv : CoreState.reset.iv = 0 := rfl
@[simp] theorem CoreState.reset_alen : CoreState.reset.alen = 0 := rfl
@[simp] theorem CoreState.reset_dlen : CoreState.reset.dlen = 0 := rfl
@[simp] theorem CoreState.reset_tag : CoreState.reset.tag = 0 := rfl
@[simp] theorem CoreState.reset_opa : CoreState.reset.opa = 0 := rfl
@[simp] theorem CoreState.reset_opb : CoreState.reset.opb = 0 := rfl
@[simp] theorem CoreState.reset_res : CoreState.reset.res = 0 := rfl
@[simp] theorem CoreState.reset_keyv : CoreState.reset.keyv = false := rfl
@[simp] theorem CoreState.reset_ivv : CoreState.reset.ivv = false := rfl
@[simp] theorem CoreState.reset_rkv : CoreState.reset.rkv = false := rfl
@[simp] theorem CoreState.reset_err : CoreState.reset.err = 0 := rfl
@[simp] theorem CoreState.reset_rk : CoreState.reset.rk = Vector.replicate 11 0 := rfl
@[simp] theorem CoreState.reset_h : CoreState.reset.h = 0 := rfl
@[simp] theorem CoreState.reset_y : CoreState.reset.y = 0 := rfl
@[simp] theorem CoreState.reset_ctr : CoreState.reset.ctr = 0 := rfl
@[simp] theorem CoreState.reset_ej0 : CoreState.reset.ej0 = 0 := rfl
@[simp] theorem CoreState.reset_abuf : CoreState.reset.abuf = [] := rfl
@[simp] theorem CoreState.reset_ibuf : CoreState.reset.ibuf = [] := rfl
@[simp] theorem CoreState.reset_obuf : CoreState.reset.obuf = [] := rfl
@[simp] theorem State.resetWith_core (a d : Nat) :
    (State.resetWith a d).toCoreState = CoreState.reset := rfl
@[simp] theorem State.resetWith_abufSize (a d : Nat) : (State.resetWith a d).abufSize = a := rfl
@[simp] theorem State.resetWith_dbufSize (a d : Nat) : (State.resetWith a d).dbufSize = d := rfl
@[simp] theorem State.resetWith_resets (a d : Nat) : (State.resetWith a d).resets = 0 := rfl
@[simp] theorem State.resetWith_releases (a d : Nat) : (State.resetWith a d).releases = 0 := rfl
@[simp] theorem State.resetWith_inbox (a d : Nat) : (State.resetWith a d).inbox = [] := rfl
@[simp] theorem State.resetWith_responses (a d : Nat) : (State.resetWith a d).responses = [] := rfl

/-! ### The outcome codes (spec 60_exceptions.md R210) -/

@[simp] theorem ErrCode.code_ok : ErrCode.ok.code = 0x00#8 := rfl
@[simp] theorem ErrCode.code_illegal : ErrCode.illegal.code = 0x01#8 := rfl
@[simp] theorem ErrCode.code_precond : ErrCode.precond.code = 0x02#8 := rfl
@[simp] theorem ErrCode.code_length : ErrCode.length.code = 0x03#8 := rfl
@[simp] theorem ErrCode.code_ctr : ErrCode.ctr.code = 0x04#8 := rfl
@[simp] theorem ErrCode.code_auth : ErrCode.auth.code = 0x05#8 := rfl

/-! ### The messages as the claims write them (spec 10_state.md R25) -/

theorem State.memRead_abuf_alen (s : State) :
    s.memRead .abuf 0 s.alen.toNat = s.aad := rfl
theorem State.memRead_ibuf_dlen (s : State) :
    s.memRead .ibuf 0 s.dlen.toNat = s.text := rfl

/-! ### `State.report` -/

@[simp] theorem State.report_key (s : State) (e : ErrCode) : (s.report e).key = s.key := rfl
@[simp] theorem State.report_iv (s : State) (e : ErrCode) : (s.report e).iv = s.iv := rfl
@[simp] theorem State.report_alen (s : State) (e : ErrCode) : (s.report e).alen = s.alen := rfl
@[simp] theorem State.report_dlen (s : State) (e : ErrCode) : (s.report e).dlen = s.dlen := rfl
@[simp] theorem State.report_tag (s : State) (e : ErrCode) : (s.report e).tag = s.tag := rfl
@[simp] theorem State.report_opa (s : State) (e : ErrCode) : (s.report e).opa = s.opa := rfl
@[simp] theorem State.report_opb (s : State) (e : ErrCode) : (s.report e).opb = s.opb := rfl
@[simp] theorem State.report_res (s : State) (e : ErrCode) : (s.report e).res = s.res := rfl
@[simp] theorem State.report_keyv (s : State) (e : ErrCode) : (s.report e).keyv = s.keyv := rfl
@[simp] theorem State.report_ivv (s : State) (e : ErrCode) : (s.report e).ivv = s.ivv := rfl
@[simp] theorem State.report_rkv (s : State) (e : ErrCode) : (s.report e).rkv = s.rkv := rfl
@[simp] theorem State.report_err (s : State) (e : ErrCode) : (s.report e).err = e.code := rfl
@[simp] theorem State.report_rk (s : State) (e : ErrCode) : (s.report e).rk = s.rk := rfl
@[simp] theorem State.report_h (s : State) (e : ErrCode) : (s.report e).h = s.h := rfl
@[simp] theorem State.report_y (s : State) (e : ErrCode) : (s.report e).y = s.y := rfl
@[simp] theorem State.report_ctr (s : State) (e : ErrCode) : (s.report e).ctr = s.ctr := rfl
@[simp] theorem State.report_ej0 (s : State) (e : ErrCode) : (s.report e).ej0 = s.ej0 := rfl
@[simp] theorem State.report_abuf (s : State) (e : ErrCode) : (s.report e).abuf = s.abuf := rfl
@[simp] theorem State.report_ibuf (s : State) (e : ErrCode) : (s.report e).ibuf = s.ibuf := rfl
@[simp] theorem State.report_obuf (s : State) (e : ErrCode) : (s.report e).obuf = s.obuf := rfl
@[simp] theorem State.report_abufSize (s : State) (e : ErrCode) : (s.report e).abufSize = s.abufSize := rfl
@[simp] theorem State.report_dbufSize (s : State) (e : ErrCode) : (s.report e).dbufSize = s.dbufSize := rfl
@[simp] theorem State.report_resets (s : State) (e : ErrCode) : (s.report e).resets = s.resets := rfl
@[simp] theorem State.report_releases (s : State) (e : ErrCode) : (s.report e).releases = s.releases := rfl
@[simp] theorem State.report_inbox (s : State) (e : ErrCode) : (s.report e).inbox = s.inbox := rfl
@[simp] theorem State.report_responses (s : State) (e : ErrCode) : (s.report e).responses = s.responses := rfl
@[simp] theorem State.report_buf (s : State) (e : ErrCode) (sp : Space) : (s.report e).buf sp = s.buf sp := rfl
@[simp] theorem State.report_bufByte (s : State) (e : ErrCode) (sp : Space) (a : Nat) : (s.report e).bufByte sp a = s.bufByte sp a := rfl
@[simp] theorem State.report_memRead (s : State) (e : ErrCode) (sp : Space) (a n : Nat) : (s.report e).memRead sp a n = s.memRead sp a n := rfl
@[simp] theorem State.report_aad (s : State) (e : ErrCode) : (s.report e).aad = s.aad := rfl
@[simp] theorem State.report_text (s : State) (e : ErrCode) : (s.report e).text = s.text := rfl
@[simp] theorem State.report_bufSize (s : State) (e : ErrCode) (sp : Space) : (s.report e).bufSize sp = s.bufSize sp := by cases sp <;> rfl

/-! ### `State.loadKey` -/

@[simp] theorem State.loadKey_key (s : State) (v : Block) : (s.loadKey v).key = v := rfl
@[simp] theorem State.loadKey_iv (s : State) (v : Block) : (s.loadKey v).iv = s.iv := rfl
@[simp] theorem State.loadKey_alen (s : State) (v : Block) : (s.loadKey v).alen = s.alen := rfl
@[simp] theorem State.loadKey_dlen (s : State) (v : Block) : (s.loadKey v).dlen = s.dlen := rfl
@[simp] theorem State.loadKey_tag (s : State) (v : Block) : (s.loadKey v).tag = s.tag := rfl
@[simp] theorem State.loadKey_opa (s : State) (v : Block) : (s.loadKey v).opa = s.opa := rfl
@[simp] theorem State.loadKey_opb (s : State) (v : Block) : (s.loadKey v).opb = s.opb := rfl
@[simp] theorem State.loadKey_res (s : State) (v : Block) : (s.loadKey v).res = s.res := rfl
@[simp] theorem State.loadKey_keyv (s : State) (v : Block) : (s.loadKey v).keyv = true := rfl
@[simp] theorem State.loadKey_ivv (s : State) (v : Block) : (s.loadKey v).ivv = s.ivv := rfl
@[simp] theorem State.loadKey_rkv (s : State) (v : Block) : (s.loadKey v).rkv = false := rfl
@[simp] theorem State.loadKey_err (s : State) (v : Block) : (s.loadKey v).err = s.err := rfl
@[simp] theorem State.loadKey_rk (s : State) (v : Block) : (s.loadKey v).rk = Vector.replicate 11 0 := rfl
@[simp] theorem State.loadKey_h (s : State) (v : Block) : (s.loadKey v).h = s.h := rfl
@[simp] theorem State.loadKey_y (s : State) (v : Block) : (s.loadKey v).y = s.y := rfl
@[simp] theorem State.loadKey_ctr (s : State) (v : Block) : (s.loadKey v).ctr = s.ctr := rfl
@[simp] theorem State.loadKey_ej0 (s : State) (v : Block) : (s.loadKey v).ej0 = s.ej0 := rfl
@[simp] theorem State.loadKey_abuf (s : State) (v : Block) : (s.loadKey v).abuf = s.abuf := rfl
@[simp] theorem State.loadKey_ibuf (s : State) (v : Block) : (s.loadKey v).ibuf = s.ibuf := rfl
@[simp] theorem State.loadKey_obuf (s : State) (v : Block) : (s.loadKey v).obuf = s.obuf := rfl
@[simp] theorem State.loadKey_abufSize (s : State) (v : Block) : (s.loadKey v).abufSize = s.abufSize := rfl
@[simp] theorem State.loadKey_dbufSize (s : State) (v : Block) : (s.loadKey v).dbufSize = s.dbufSize := rfl
@[simp] theorem State.loadKey_resets (s : State) (v : Block) : (s.loadKey v).resets = s.resets := rfl
@[simp] theorem State.loadKey_releases (s : State) (v : Block) : (s.loadKey v).releases = s.releases := rfl
@[simp] theorem State.loadKey_inbox (s : State) (v : Block) : (s.loadKey v).inbox = s.inbox := rfl
@[simp] theorem State.loadKey_responses (s : State) (v : Block) : (s.loadKey v).responses = s.responses := rfl
@[simp] theorem State.loadKey_buf (s : State) (v : Block) (sp : Space) : (s.loadKey v).buf sp = s.buf sp := rfl
@[simp] theorem State.loadKey_bufByte (s : State) (v : Block) (sp : Space) (a : Nat) : (s.loadKey v).bufByte sp a = s.bufByte sp a := rfl
@[simp] theorem State.loadKey_memRead (s : State) (v : Block) (sp : Space) (a n : Nat) : (s.loadKey v).memRead sp a n = s.memRead sp a n := rfl
@[simp] theorem State.loadKey_aad (s : State) (v : Block) : (s.loadKey v).aad = s.aad := rfl
@[simp] theorem State.loadKey_text (s : State) (v : Block) : (s.loadKey v).text = s.text := rfl
@[simp] theorem State.loadKey_bufSize (s : State) (v : Block) (sp : Space) : (s.loadKey v).bufSize sp = s.bufSize sp := by cases sp <;> rfl

/-! ### `State.loadIv` -/

@[simp] theorem State.loadIv_key (s : State) (v : IvWord) : (s.loadIv v).key = s.key := rfl
@[simp] theorem State.loadIv_iv (s : State) (v : IvWord) : (s.loadIv v).iv = v := rfl
@[simp] theorem State.loadIv_alen (s : State) (v : IvWord) : (s.loadIv v).alen = s.alen := rfl
@[simp] theorem State.loadIv_dlen (s : State) (v : IvWord) : (s.loadIv v).dlen = s.dlen := rfl
@[simp] theorem State.loadIv_tag (s : State) (v : IvWord) : (s.loadIv v).tag = s.tag := rfl
@[simp] theorem State.loadIv_opa (s : State) (v : IvWord) : (s.loadIv v).opa = s.opa := rfl
@[simp] theorem State.loadIv_opb (s : State) (v : IvWord) : (s.loadIv v).opb = s.opb := rfl
@[simp] theorem State.loadIv_res (s : State) (v : IvWord) : (s.loadIv v).res = s.res := rfl
@[simp] theorem State.loadIv_keyv (s : State) (v : IvWord) : (s.loadIv v).keyv = s.keyv := rfl
@[simp] theorem State.loadIv_ivv (s : State) (v : IvWord) : (s.loadIv v).ivv = true := rfl
@[simp] theorem State.loadIv_rkv (s : State) (v : IvWord) : (s.loadIv v).rkv = s.rkv := rfl
@[simp] theorem State.loadIv_err (s : State) (v : IvWord) : (s.loadIv v).err = s.err := rfl
@[simp] theorem State.loadIv_rk (s : State) (v : IvWord) : (s.loadIv v).rk = s.rk := rfl
@[simp] theorem State.loadIv_h (s : State) (v : IvWord) : (s.loadIv v).h = s.h := rfl
@[simp] theorem State.loadIv_y (s : State) (v : IvWord) : (s.loadIv v).y = s.y := rfl
@[simp] theorem State.loadIv_ctr (s : State) (v : IvWord) : (s.loadIv v).ctr = s.ctr := rfl
@[simp] theorem State.loadIv_ej0 (s : State) (v : IvWord) : (s.loadIv v).ej0 = s.ej0 := rfl
@[simp] theorem State.loadIv_abuf (s : State) (v : IvWord) : (s.loadIv v).abuf = s.abuf := rfl
@[simp] theorem State.loadIv_ibuf (s : State) (v : IvWord) : (s.loadIv v).ibuf = s.ibuf := rfl
@[simp] theorem State.loadIv_obuf (s : State) (v : IvWord) : (s.loadIv v).obuf = s.obuf := rfl
@[simp] theorem State.loadIv_abufSize (s : State) (v : IvWord) : (s.loadIv v).abufSize = s.abufSize := rfl
@[simp] theorem State.loadIv_dbufSize (s : State) (v : IvWord) : (s.loadIv v).dbufSize = s.dbufSize := rfl
@[simp] theorem State.loadIv_resets (s : State) (v : IvWord) : (s.loadIv v).resets = s.resets := rfl
@[simp] theorem State.loadIv_releases (s : State) (v : IvWord) : (s.loadIv v).releases = s.releases := rfl
@[simp] theorem State.loadIv_inbox (s : State) (v : IvWord) : (s.loadIv v).inbox = s.inbox := rfl
@[simp] theorem State.loadIv_responses (s : State) (v : IvWord) : (s.loadIv v).responses = s.responses := rfl
@[simp] theorem State.loadIv_buf (s : State) (v : IvWord) (sp : Space) : (s.loadIv v).buf sp = s.buf sp := rfl
@[simp] theorem State.loadIv_bufByte (s : State) (v : IvWord) (sp : Space) (a : Nat) : (s.loadIv v).bufByte sp a = s.bufByte sp a := rfl
@[simp] theorem State.loadIv_memRead (s : State) (v : IvWord) (sp : Space) (a n : Nat) : (s.loadIv v).memRead sp a n = s.memRead sp a n := rfl
@[simp] theorem State.loadIv_aad (s : State) (v : IvWord) : (s.loadIv v).aad = s.aad := rfl
@[simp] theorem State.loadIv_text (s : State) (v : IvWord) : (s.loadIv v).text = s.text := rfl
@[simp] theorem State.loadIv_bufSize (s : State) (v : IvWord) (sp : Space) : (s.loadIv v).bufSize sp = s.bufSize sp := by cases sp <;> rfl

/-! ### `State.setAlen` -/

@[simp] theorem State.setAlen_key (s : State) (v : Length) : (s.setAlen v).key = s.key := rfl
@[simp] theorem State.setAlen_iv (s : State) (v : Length) : (s.setAlen v).iv = s.iv := rfl
@[simp] theorem State.setAlen_alen (s : State) (v : Length) : (s.setAlen v).alen = v := rfl
@[simp] theorem State.setAlen_dlen (s : State) (v : Length) : (s.setAlen v).dlen = s.dlen := rfl
@[simp] theorem State.setAlen_tag (s : State) (v : Length) : (s.setAlen v).tag = s.tag := rfl
@[simp] theorem State.setAlen_opa (s : State) (v : Length) : (s.setAlen v).opa = s.opa := rfl
@[simp] theorem State.setAlen_opb (s : State) (v : Length) : (s.setAlen v).opb = s.opb := rfl
@[simp] theorem State.setAlen_res (s : State) (v : Length) : (s.setAlen v).res = s.res := rfl
@[simp] theorem State.setAlen_keyv (s : State) (v : Length) : (s.setAlen v).keyv = s.keyv := rfl
@[simp] theorem State.setAlen_ivv (s : State) (v : Length) : (s.setAlen v).ivv = s.ivv := rfl
@[simp] theorem State.setAlen_rkv (s : State) (v : Length) : (s.setAlen v).rkv = s.rkv := rfl
@[simp] theorem State.setAlen_err (s : State) (v : Length) : (s.setAlen v).err = s.err := rfl
@[simp] theorem State.setAlen_rk (s : State) (v : Length) : (s.setAlen v).rk = s.rk := rfl
@[simp] theorem State.setAlen_h (s : State) (v : Length) : (s.setAlen v).h = s.h := rfl
@[simp] theorem State.setAlen_y (s : State) (v : Length) : (s.setAlen v).y = s.y := rfl
@[simp] theorem State.setAlen_ctr (s : State) (v : Length) : (s.setAlen v).ctr = s.ctr := rfl
@[simp] theorem State.setAlen_ej0 (s : State) (v : Length) : (s.setAlen v).ej0 = s.ej0 := rfl
@[simp] theorem State.setAlen_abuf (s : State) (v : Length) : (s.setAlen v).abuf = s.abuf := rfl
@[simp] theorem State.setAlen_ibuf (s : State) (v : Length) : (s.setAlen v).ibuf = s.ibuf := rfl
@[simp] theorem State.setAlen_obuf (s : State) (v : Length) : (s.setAlen v).obuf = s.obuf := rfl
@[simp] theorem State.setAlen_abufSize (s : State) (v : Length) : (s.setAlen v).abufSize = s.abufSize := rfl
@[simp] theorem State.setAlen_dbufSize (s : State) (v : Length) : (s.setAlen v).dbufSize = s.dbufSize := rfl
@[simp] theorem State.setAlen_resets (s : State) (v : Length) : (s.setAlen v).resets = s.resets := rfl
@[simp] theorem State.setAlen_releases (s : State) (v : Length) : (s.setAlen v).releases = s.releases := rfl
@[simp] theorem State.setAlen_inbox (s : State) (v : Length) : (s.setAlen v).inbox = s.inbox := rfl
@[simp] theorem State.setAlen_responses (s : State) (v : Length) : (s.setAlen v).responses = s.responses := rfl
@[simp] theorem State.setAlen_buf (s : State) (v : Length) (sp : Space) : (s.setAlen v).buf sp = s.buf sp := rfl
@[simp] theorem State.setAlen_bufByte (s : State) (v : Length) (sp : Space) (a : Nat) : (s.setAlen v).bufByte sp a = s.bufByte sp a := rfl
@[simp] theorem State.setAlen_memRead (s : State) (v : Length) (sp : Space) (a n : Nat) : (s.setAlen v).memRead sp a n = s.memRead sp a n := rfl
@[simp] theorem State.setAlen_text (s : State) (v : Length) : (s.setAlen v).text = s.text := rfl
@[simp] theorem State.setAlen_bufSize (s : State) (v : Length) (sp : Space) : (s.setAlen v).bufSize sp = s.bufSize sp := by cases sp <;> rfl

/-! ### `State.setDlen` -/

@[simp] theorem State.setDlen_key (s : State) (v : Length) : (s.setDlen v).key = s.key := rfl
@[simp] theorem State.setDlen_iv (s : State) (v : Length) : (s.setDlen v).iv = s.iv := rfl
@[simp] theorem State.setDlen_alen (s : State) (v : Length) : (s.setDlen v).alen = s.alen := rfl
@[simp] theorem State.setDlen_dlen (s : State) (v : Length) : (s.setDlen v).dlen = v := rfl
@[simp] theorem State.setDlen_tag (s : State) (v : Length) : (s.setDlen v).tag = s.tag := rfl
@[simp] theorem State.setDlen_opa (s : State) (v : Length) : (s.setDlen v).opa = s.opa := rfl
@[simp] theorem State.setDlen_opb (s : State) (v : Length) : (s.setDlen v).opb = s.opb := rfl
@[simp] theorem State.setDlen_res (s : State) (v : Length) : (s.setDlen v).res = s.res := rfl
@[simp] theorem State.setDlen_keyv (s : State) (v : Length) : (s.setDlen v).keyv = s.keyv := rfl
@[simp] theorem State.setDlen_ivv (s : State) (v : Length) : (s.setDlen v).ivv = s.ivv := rfl
@[simp] theorem State.setDlen_rkv (s : State) (v : Length) : (s.setDlen v).rkv = s.rkv := rfl
@[simp] theorem State.setDlen_err (s : State) (v : Length) : (s.setDlen v).err = s.err := rfl
@[simp] theorem State.setDlen_rk (s : State) (v : Length) : (s.setDlen v).rk = s.rk := rfl
@[simp] theorem State.setDlen_h (s : State) (v : Length) : (s.setDlen v).h = s.h := rfl
@[simp] theorem State.setDlen_y (s : State) (v : Length) : (s.setDlen v).y = s.y := rfl
@[simp] theorem State.setDlen_ctr (s : State) (v : Length) : (s.setDlen v).ctr = s.ctr := rfl
@[simp] theorem State.setDlen_ej0 (s : State) (v : Length) : (s.setDlen v).ej0 = s.ej0 := rfl
@[simp] theorem State.setDlen_abuf (s : State) (v : Length) : (s.setDlen v).abuf = s.abuf := rfl
@[simp] theorem State.setDlen_ibuf (s : State) (v : Length) : (s.setDlen v).ibuf = s.ibuf := rfl
@[simp] theorem State.setDlen_obuf (s : State) (v : Length) : (s.setDlen v).obuf = s.obuf := rfl
@[simp] theorem State.setDlen_abufSize (s : State) (v : Length) : (s.setDlen v).abufSize = s.abufSize := rfl
@[simp] theorem State.setDlen_dbufSize (s : State) (v : Length) : (s.setDlen v).dbufSize = s.dbufSize := rfl
@[simp] theorem State.setDlen_resets (s : State) (v : Length) : (s.setDlen v).resets = s.resets := rfl
@[simp] theorem State.setDlen_releases (s : State) (v : Length) : (s.setDlen v).releases = s.releases := rfl
@[simp] theorem State.setDlen_inbox (s : State) (v : Length) : (s.setDlen v).inbox = s.inbox := rfl
@[simp] theorem State.setDlen_responses (s : State) (v : Length) : (s.setDlen v).responses = s.responses := rfl
@[simp] theorem State.setDlen_buf (s : State) (v : Length) (sp : Space) : (s.setDlen v).buf sp = s.buf sp := rfl
@[simp] theorem State.setDlen_bufByte (s : State) (v : Length) (sp : Space) (a : Nat) : (s.setDlen v).bufByte sp a = s.bufByte sp a := rfl
@[simp] theorem State.setDlen_memRead (s : State) (v : Length) (sp : Space) (a n : Nat) : (s.setDlen v).memRead sp a n = s.memRead sp a n := rfl
@[simp] theorem State.setDlen_aad (s : State) (v : Length) : (s.setDlen v).aad = s.aad := rfl
@[simp] theorem State.setDlen_bufSize (s : State) (v : Length) (sp : Space) : (s.setDlen v).bufSize sp = s.bufSize sp := by cases sp <;> rfl

/-! ### `State.setTag` -/

@[simp] theorem State.setTag_key (s : State) (v : Block) : (s.setTag v).key = s.key := rfl
@[simp] theorem State.setTag_iv (s : State) (v : Block) : (s.setTag v).iv = s.iv := rfl
@[simp] theorem State.setTag_alen (s : State) (v : Block) : (s.setTag v).alen = s.alen := rfl
@[simp] theorem State.setTag_dlen (s : State) (v : Block) : (s.setTag v).dlen = s.dlen := rfl
@[simp] theorem State.setTag_tag (s : State) (v : Block) : (s.setTag v).tag = v := rfl
@[simp] theorem State.setTag_opa (s : State) (v : Block) : (s.setTag v).opa = s.opa := rfl
@[simp] theorem State.setTag_opb (s : State) (v : Block) : (s.setTag v).opb = s.opb := rfl
@[simp] theorem State.setTag_res (s : State) (v : Block) : (s.setTag v).res = s.res := rfl
@[simp] theorem State.setTag_keyv (s : State) (v : Block) : (s.setTag v).keyv = s.keyv := rfl
@[simp] theorem State.setTag_ivv (s : State) (v : Block) : (s.setTag v).ivv = s.ivv := rfl
@[simp] theorem State.setTag_rkv (s : State) (v : Block) : (s.setTag v).rkv = s.rkv := rfl
@[simp] theorem State.setTag_err (s : State) (v : Block) : (s.setTag v).err = s.err := rfl
@[simp] theorem State.setTag_rk (s : State) (v : Block) : (s.setTag v).rk = s.rk := rfl
@[simp] theorem State.setTag_h (s : State) (v : Block) : (s.setTag v).h = s.h := rfl
@[simp] theorem State.setTag_y (s : State) (v : Block) : (s.setTag v).y = s.y := rfl
@[simp] theorem State.setTag_ctr (s : State) (v : Block) : (s.setTag v).ctr = s.ctr := rfl
@[simp] theorem State.setTag_ej0 (s : State) (v : Block) : (s.setTag v).ej0 = s.ej0 := rfl
@[simp] theorem State.setTag_abuf (s : State) (v : Block) : (s.setTag v).abuf = s.abuf := rfl
@[simp] theorem State.setTag_ibuf (s : State) (v : Block) : (s.setTag v).ibuf = s.ibuf := rfl
@[simp] theorem State.setTag_obuf (s : State) (v : Block) : (s.setTag v).obuf = s.obuf := rfl
@[simp] theorem State.setTag_abufSize (s : State) (v : Block) : (s.setTag v).abufSize = s.abufSize := rfl
@[simp] theorem State.setTag_dbufSize (s : State) (v : Block) : (s.setTag v).dbufSize = s.dbufSize := rfl
@[simp] theorem State.setTag_resets (s : State) (v : Block) : (s.setTag v).resets = s.resets := rfl
@[simp] theorem State.setTag_releases (s : State) (v : Block) : (s.setTag v).releases = s.releases := rfl
@[simp] theorem State.setTag_inbox (s : State) (v : Block) : (s.setTag v).inbox = s.inbox := rfl
@[simp] theorem State.setTag_responses (s : State) (v : Block) : (s.setTag v).responses = s.responses := rfl
@[simp] theorem State.setTag_buf (s : State) (v : Block) (sp : Space) : (s.setTag v).buf sp = s.buf sp := rfl
@[simp] theorem State.setTag_bufByte (s : State) (v : Block) (sp : Space) (a : Nat) : (s.setTag v).bufByte sp a = s.bufByte sp a := rfl
@[simp] theorem State.setTag_memRead (s : State) (v : Block) (sp : Space) (a n : Nat) : (s.setTag v).memRead sp a n = s.memRead sp a n := rfl
@[simp] theorem State.setTag_aad (s : State) (v : Block) : (s.setTag v).aad = s.aad := rfl
@[simp] theorem State.setTag_text (s : State) (v : Block) : (s.setTag v).text = s.text := rfl
@[simp] theorem State.setTag_bufSize (s : State) (v : Block) (sp : Space) : (s.setTag v).bufSize sp = s.bufSize sp := by cases sp <;> rfl

/-! ### `State.setOpa` -/

@[simp] theorem State.setOpa_key (s : State) (v : Block) : (s.setOpa v).key = s.key := rfl
@[simp] theorem State.setOpa_iv (s : State) (v : Block) : (s.setOpa v).iv = s.iv := rfl
@[simp] theorem State.setOpa_alen (s : State) (v : Block) : (s.setOpa v).alen = s.alen := rfl
@[simp] theorem State.setOpa_dlen (s : State) (v : Block) : (s.setOpa v).dlen = s.dlen := rfl
@[simp] theorem State.setOpa_tag (s : State) (v : Block) : (s.setOpa v).tag = s.tag := rfl
@[simp] theorem State.setOpa_opa (s : State) (v : Block) : (s.setOpa v).opa = v := rfl
@[simp] theorem State.setOpa_opb (s : State) (v : Block) : (s.setOpa v).opb = s.opb := rfl
@[simp] theorem State.setOpa_res (s : State) (v : Block) : (s.setOpa v).res = s.res := rfl
@[simp] theorem State.setOpa_keyv (s : State) (v : Block) : (s.setOpa v).keyv = s.keyv := rfl
@[simp] theorem State.setOpa_ivv (s : State) (v : Block) : (s.setOpa v).ivv = s.ivv := rfl
@[simp] theorem State.setOpa_rkv (s : State) (v : Block) : (s.setOpa v).rkv = s.rkv := rfl
@[simp] theorem State.setOpa_err (s : State) (v : Block) : (s.setOpa v).err = s.err := rfl
@[simp] theorem State.setOpa_rk (s : State) (v : Block) : (s.setOpa v).rk = s.rk := rfl
@[simp] theorem State.setOpa_h (s : State) (v : Block) : (s.setOpa v).h = s.h := rfl
@[simp] theorem State.setOpa_y (s : State) (v : Block) : (s.setOpa v).y = s.y := rfl
@[simp] theorem State.setOpa_ctr (s : State) (v : Block) : (s.setOpa v).ctr = s.ctr := rfl
@[simp] theorem State.setOpa_ej0 (s : State) (v : Block) : (s.setOpa v).ej0 = s.ej0 := rfl
@[simp] theorem State.setOpa_abuf (s : State) (v : Block) : (s.setOpa v).abuf = s.abuf := rfl
@[simp] theorem State.setOpa_ibuf (s : State) (v : Block) : (s.setOpa v).ibuf = s.ibuf := rfl
@[simp] theorem State.setOpa_obuf (s : State) (v : Block) : (s.setOpa v).obuf = s.obuf := rfl
@[simp] theorem State.setOpa_abufSize (s : State) (v : Block) : (s.setOpa v).abufSize = s.abufSize := rfl
@[simp] theorem State.setOpa_dbufSize (s : State) (v : Block) : (s.setOpa v).dbufSize = s.dbufSize := rfl
@[simp] theorem State.setOpa_resets (s : State) (v : Block) : (s.setOpa v).resets = s.resets := rfl
@[simp] theorem State.setOpa_releases (s : State) (v : Block) : (s.setOpa v).releases = s.releases := rfl
@[simp] theorem State.setOpa_inbox (s : State) (v : Block) : (s.setOpa v).inbox = s.inbox := rfl
@[simp] theorem State.setOpa_responses (s : State) (v : Block) : (s.setOpa v).responses = s.responses := rfl
@[simp] theorem State.setOpa_buf (s : State) (v : Block) (sp : Space) : (s.setOpa v).buf sp = s.buf sp := rfl
@[simp] theorem State.setOpa_bufByte (s : State) (v : Block) (sp : Space) (a : Nat) : (s.setOpa v).bufByte sp a = s.bufByte sp a := rfl
@[simp] theorem State.setOpa_memRead (s : State) (v : Block) (sp : Space) (a n : Nat) : (s.setOpa v).memRead sp a n = s.memRead sp a n := rfl
@[simp] theorem State.setOpa_aad (s : State) (v : Block) : (s.setOpa v).aad = s.aad := rfl
@[simp] theorem State.setOpa_text (s : State) (v : Block) : (s.setOpa v).text = s.text := rfl
@[simp] theorem State.setOpa_bufSize (s : State) (v : Block) (sp : Space) : (s.setOpa v).bufSize sp = s.bufSize sp := by cases sp <;> rfl

/-! ### `State.setOpb` -/

@[simp] theorem State.setOpb_key (s : State) (v : Block) : (s.setOpb v).key = s.key := rfl
@[simp] theorem State.setOpb_iv (s : State) (v : Block) : (s.setOpb v).iv = s.iv := rfl
@[simp] theorem State.setOpb_alen (s : State) (v : Block) : (s.setOpb v).alen = s.alen := rfl
@[simp] theorem State.setOpb_dlen (s : State) (v : Block) : (s.setOpb v).dlen = s.dlen := rfl
@[simp] theorem State.setOpb_tag (s : State) (v : Block) : (s.setOpb v).tag = s.tag := rfl
@[simp] theorem State.setOpb_opa (s : State) (v : Block) : (s.setOpb v).opa = s.opa := rfl
@[simp] theorem State.setOpb_opb (s : State) (v : Block) : (s.setOpb v).opb = v := rfl
@[simp] theorem State.setOpb_res (s : State) (v : Block) : (s.setOpb v).res = s.res := rfl
@[simp] theorem State.setOpb_keyv (s : State) (v : Block) : (s.setOpb v).keyv = s.keyv := rfl
@[simp] theorem State.setOpb_ivv (s : State) (v : Block) : (s.setOpb v).ivv = s.ivv := rfl
@[simp] theorem State.setOpb_rkv (s : State) (v : Block) : (s.setOpb v).rkv = s.rkv := rfl
@[simp] theorem State.setOpb_err (s : State) (v : Block) : (s.setOpb v).err = s.err := rfl
@[simp] theorem State.setOpb_rk (s : State) (v : Block) : (s.setOpb v).rk = s.rk := rfl
@[simp] theorem State.setOpb_h (s : State) (v : Block) : (s.setOpb v).h = s.h := rfl
@[simp] theorem State.setOpb_y (s : State) (v : Block) : (s.setOpb v).y = s.y := rfl
@[simp] theorem State.setOpb_ctr (s : State) (v : Block) : (s.setOpb v).ctr = s.ctr := rfl
@[simp] theorem State.setOpb_ej0 (s : State) (v : Block) : (s.setOpb v).ej0 = s.ej0 := rfl
@[simp] theorem State.setOpb_abuf (s : State) (v : Block) : (s.setOpb v).abuf = s.abuf := rfl
@[simp] theorem State.setOpb_ibuf (s : State) (v : Block) : (s.setOpb v).ibuf = s.ibuf := rfl
@[simp] theorem State.setOpb_obuf (s : State) (v : Block) : (s.setOpb v).obuf = s.obuf := rfl
@[simp] theorem State.setOpb_abufSize (s : State) (v : Block) : (s.setOpb v).abufSize = s.abufSize := rfl
@[simp] theorem State.setOpb_dbufSize (s : State) (v : Block) : (s.setOpb v).dbufSize = s.dbufSize := rfl
@[simp] theorem State.setOpb_resets (s : State) (v : Block) : (s.setOpb v).resets = s.resets := rfl
@[simp] theorem State.setOpb_releases (s : State) (v : Block) : (s.setOpb v).releases = s.releases := rfl
@[simp] theorem State.setOpb_inbox (s : State) (v : Block) : (s.setOpb v).inbox = s.inbox := rfl
@[simp] theorem State.setOpb_responses (s : State) (v : Block) : (s.setOpb v).responses = s.responses := rfl
@[simp] theorem State.setOpb_buf (s : State) (v : Block) (sp : Space) : (s.setOpb v).buf sp = s.buf sp := rfl
@[simp] theorem State.setOpb_bufByte (s : State) (v : Block) (sp : Space) (a : Nat) : (s.setOpb v).bufByte sp a = s.bufByte sp a := rfl
@[simp] theorem State.setOpb_memRead (s : State) (v : Block) (sp : Space) (a n : Nat) : (s.setOpb v).memRead sp a n = s.memRead sp a n := rfl
@[simp] theorem State.setOpb_aad (s : State) (v : Block) : (s.setOpb v).aad = s.aad := rfl
@[simp] theorem State.setOpb_text (s : State) (v : Block) : (s.setOpb v).text = s.text := rfl
@[simp] theorem State.setOpb_bufSize (s : State) (v : Block) (sp : Space) : (s.setOpb v).bufSize sp = s.bufSize sp := by cases sp <;> rfl

/-! ### `State.setRes` -/

@[simp] theorem State.setRes_key (s : State) (v : Block) : (s.setRes v).key = s.key := rfl
@[simp] theorem State.setRes_iv (s : State) (v : Block) : (s.setRes v).iv = s.iv := rfl
@[simp] theorem State.setRes_alen (s : State) (v : Block) : (s.setRes v).alen = s.alen := rfl
@[simp] theorem State.setRes_dlen (s : State) (v : Block) : (s.setRes v).dlen = s.dlen := rfl
@[simp] theorem State.setRes_tag (s : State) (v : Block) : (s.setRes v).tag = s.tag := rfl
@[simp] theorem State.setRes_opa (s : State) (v : Block) : (s.setRes v).opa = s.opa := rfl
@[simp] theorem State.setRes_opb (s : State) (v : Block) : (s.setRes v).opb = s.opb := rfl
@[simp] theorem State.setRes_res (s : State) (v : Block) : (s.setRes v).res = v := rfl
@[simp] theorem State.setRes_keyv (s : State) (v : Block) : (s.setRes v).keyv = s.keyv := rfl
@[simp] theorem State.setRes_ivv (s : State) (v : Block) : (s.setRes v).ivv = s.ivv := rfl
@[simp] theorem State.setRes_rkv (s : State) (v : Block) : (s.setRes v).rkv = s.rkv := rfl
@[simp] theorem State.setRes_err (s : State) (v : Block) : (s.setRes v).err = s.err := rfl
@[simp] theorem State.setRes_rk (s : State) (v : Block) : (s.setRes v).rk = s.rk := rfl
@[simp] theorem State.setRes_h (s : State) (v : Block) : (s.setRes v).h = s.h := rfl
@[simp] theorem State.setRes_y (s : State) (v : Block) : (s.setRes v).y = s.y := rfl
@[simp] theorem State.setRes_ctr (s : State) (v : Block) : (s.setRes v).ctr = s.ctr := rfl
@[simp] theorem State.setRes_ej0 (s : State) (v : Block) : (s.setRes v).ej0 = s.ej0 := rfl
@[simp] theorem State.setRes_abuf (s : State) (v : Block) : (s.setRes v).abuf = s.abuf := rfl
@[simp] theorem State.setRes_ibuf (s : State) (v : Block) : (s.setRes v).ibuf = s.ibuf := rfl
@[simp] theorem State.setRes_obuf (s : State) (v : Block) : (s.setRes v).obuf = s.obuf := rfl
@[simp] theorem State.setRes_abufSize (s : State) (v : Block) : (s.setRes v).abufSize = s.abufSize := rfl
@[simp] theorem State.setRes_dbufSize (s : State) (v : Block) : (s.setRes v).dbufSize = s.dbufSize := rfl
@[simp] theorem State.setRes_resets (s : State) (v : Block) : (s.setRes v).resets = s.resets := rfl
@[simp] theorem State.setRes_releases (s : State) (v : Block) : (s.setRes v).releases = s.releases := rfl
@[simp] theorem State.setRes_inbox (s : State) (v : Block) : (s.setRes v).inbox = s.inbox := rfl
@[simp] theorem State.setRes_responses (s : State) (v : Block) : (s.setRes v).responses = s.responses := rfl
@[simp] theorem State.setRes_buf (s : State) (v : Block) (sp : Space) : (s.setRes v).buf sp = s.buf sp := rfl
@[simp] theorem State.setRes_bufByte (s : State) (v : Block) (sp : Space) (a : Nat) : (s.setRes v).bufByte sp a = s.bufByte sp a := rfl
@[simp] theorem State.setRes_memRead (s : State) (v : Block) (sp : Space) (a n : Nat) : (s.setRes v).memRead sp a n = s.memRead sp a n := rfl
@[simp] theorem State.setRes_aad (s : State) (v : Block) : (s.setRes v).aad = s.aad := rfl
@[simp] theorem State.setRes_text (s : State) (v : Block) : (s.setRes v).text = s.text := rfl
@[simp] theorem State.setRes_bufSize (s : State) (v : Block) (sp : Space) : (s.setRes v).bufSize sp = s.bufSize sp := by cases sp <;> rfl

/-! ### `State.setRk` -/

@[simp] theorem State.setRk_key (s : State) (v : Schedule) : (s.setRk v).key = s.key := rfl
@[simp] theorem State.setRk_iv (s : State) (v : Schedule) : (s.setRk v).iv = s.iv := rfl
@[simp] theorem State.setRk_alen (s : State) (v : Schedule) : (s.setRk v).alen = s.alen := rfl
@[simp] theorem State.setRk_dlen (s : State) (v : Schedule) : (s.setRk v).dlen = s.dlen := rfl
@[simp] theorem State.setRk_tag (s : State) (v : Schedule) : (s.setRk v).tag = s.tag := rfl
@[simp] theorem State.setRk_opa (s : State) (v : Schedule) : (s.setRk v).opa = s.opa := rfl
@[simp] theorem State.setRk_opb (s : State) (v : Schedule) : (s.setRk v).opb = s.opb := rfl
@[simp] theorem State.setRk_res (s : State) (v : Schedule) : (s.setRk v).res = s.res := rfl
@[simp] theorem State.setRk_keyv (s : State) (v : Schedule) : (s.setRk v).keyv = s.keyv := rfl
@[simp] theorem State.setRk_ivv (s : State) (v : Schedule) : (s.setRk v).ivv = s.ivv := rfl
@[simp] theorem State.setRk_rkv (s : State) (v : Schedule) : (s.setRk v).rkv = s.rkv := rfl
@[simp] theorem State.setRk_err (s : State) (v : Schedule) : (s.setRk v).err = s.err := rfl
@[simp] theorem State.setRk_rk (s : State) (v : Schedule) : (s.setRk v).rk = v := rfl
@[simp] theorem State.setRk_h (s : State) (v : Schedule) : (s.setRk v).h = s.h := rfl
@[simp] theorem State.setRk_y (s : State) (v : Schedule) : (s.setRk v).y = s.y := rfl
@[simp] theorem State.setRk_ctr (s : State) (v : Schedule) : (s.setRk v).ctr = s.ctr := rfl
@[simp] theorem State.setRk_ej0 (s : State) (v : Schedule) : (s.setRk v).ej0 = s.ej0 := rfl
@[simp] theorem State.setRk_abuf (s : State) (v : Schedule) : (s.setRk v).abuf = s.abuf := rfl
@[simp] theorem State.setRk_ibuf (s : State) (v : Schedule) : (s.setRk v).ibuf = s.ibuf := rfl
@[simp] theorem State.setRk_obuf (s : State) (v : Schedule) : (s.setRk v).obuf = s.obuf := rfl
@[simp] theorem State.setRk_abufSize (s : State) (v : Schedule) : (s.setRk v).abufSize = s.abufSize := rfl
@[simp] theorem State.setRk_dbufSize (s : State) (v : Schedule) : (s.setRk v).dbufSize = s.dbufSize := rfl
@[simp] theorem State.setRk_resets (s : State) (v : Schedule) : (s.setRk v).resets = s.resets := rfl
@[simp] theorem State.setRk_releases (s : State) (v : Schedule) : (s.setRk v).releases = s.releases := rfl
@[simp] theorem State.setRk_inbox (s : State) (v : Schedule) : (s.setRk v).inbox = s.inbox := rfl
@[simp] theorem State.setRk_responses (s : State) (v : Schedule) : (s.setRk v).responses = s.responses := rfl
@[simp] theorem State.setRk_buf (s : State) (v : Schedule) (sp : Space) : (s.setRk v).buf sp = s.buf sp := rfl
@[simp] theorem State.setRk_bufByte (s : State) (v : Schedule) (sp : Space) (a : Nat) : (s.setRk v).bufByte sp a = s.bufByte sp a := rfl
@[simp] theorem State.setRk_memRead (s : State) (v : Schedule) (sp : Space) (a n : Nat) : (s.setRk v).memRead sp a n = s.memRead sp a n := rfl
@[simp] theorem State.setRk_aad (s : State) (v : Schedule) : (s.setRk v).aad = s.aad := rfl
@[simp] theorem State.setRk_text (s : State) (v : Schedule) : (s.setRk v).text = s.text := rfl
@[simp] theorem State.setRk_bufSize (s : State) (v : Schedule) (sp : Space) : (s.setRk v).bufSize sp = s.bufSize sp := by cases sp <;> rfl

/-! ### `State.setRkv` -/

@[simp] theorem State.setRkv_key (s : State) (v : Bool) : (s.setRkv v).key = s.key := rfl
@[simp] theorem State.setRkv_iv (s : State) (v : Bool) : (s.setRkv v).iv = s.iv := rfl
@[simp] theorem State.setRkv_alen (s : State) (v : Bool) : (s.setRkv v).alen = s.alen := rfl
@[simp] theorem State.setRkv_dlen (s : State) (v : Bool) : (s.setRkv v).dlen = s.dlen := rfl
@[simp] theorem State.setRkv_tag (s : State) (v : Bool) : (s.setRkv v).tag = s.tag := rfl
@[simp] theorem State.setRkv_opa (s : State) (v : Bool) : (s.setRkv v).opa = s.opa := rfl
@[simp] theorem State.setRkv_opb (s : State) (v : Bool) : (s.setRkv v).opb = s.opb := rfl
@[simp] theorem State.setRkv_res (s : State) (v : Bool) : (s.setRkv v).res = s.res := rfl
@[simp] theorem State.setRkv_keyv (s : State) (v : Bool) : (s.setRkv v).keyv = s.keyv := rfl
@[simp] theorem State.setRkv_ivv (s : State) (v : Bool) : (s.setRkv v).ivv = s.ivv := rfl
@[simp] theorem State.setRkv_rkv (s : State) (v : Bool) : (s.setRkv v).rkv = v := rfl
@[simp] theorem State.setRkv_err (s : State) (v : Bool) : (s.setRkv v).err = s.err := rfl
@[simp] theorem State.setRkv_rk (s : State) (v : Bool) : (s.setRkv v).rk = s.rk := rfl
@[simp] theorem State.setRkv_h (s : State) (v : Bool) : (s.setRkv v).h = s.h := rfl
@[simp] theorem State.setRkv_y (s : State) (v : Bool) : (s.setRkv v).y = s.y := rfl
@[simp] theorem State.setRkv_ctr (s : State) (v : Bool) : (s.setRkv v).ctr = s.ctr := rfl
@[simp] theorem State.setRkv_ej0 (s : State) (v : Bool) : (s.setRkv v).ej0 = s.ej0 := rfl
@[simp] theorem State.setRkv_abuf (s : State) (v : Bool) : (s.setRkv v).abuf = s.abuf := rfl
@[simp] theorem State.setRkv_ibuf (s : State) (v : Bool) : (s.setRkv v).ibuf = s.ibuf := rfl
@[simp] theorem State.setRkv_obuf (s : State) (v : Bool) : (s.setRkv v).obuf = s.obuf := rfl
@[simp] theorem State.setRkv_abufSize (s : State) (v : Bool) : (s.setRkv v).abufSize = s.abufSize := rfl
@[simp] theorem State.setRkv_dbufSize (s : State) (v : Bool) : (s.setRkv v).dbufSize = s.dbufSize := rfl
@[simp] theorem State.setRkv_resets (s : State) (v : Bool) : (s.setRkv v).resets = s.resets := rfl
@[simp] theorem State.setRkv_releases (s : State) (v : Bool) : (s.setRkv v).releases = s.releases := rfl
@[simp] theorem State.setRkv_inbox (s : State) (v : Bool) : (s.setRkv v).inbox = s.inbox := rfl
@[simp] theorem State.setRkv_responses (s : State) (v : Bool) : (s.setRkv v).responses = s.responses := rfl
@[simp] theorem State.setRkv_buf (s : State) (v : Bool) (sp : Space) : (s.setRkv v).buf sp = s.buf sp := rfl
@[simp] theorem State.setRkv_bufByte (s : State) (v : Bool) (sp : Space) (a : Nat) : (s.setRkv v).bufByte sp a = s.bufByte sp a := rfl
@[simp] theorem State.setRkv_memRead (s : State) (v : Bool) (sp : Space) (a n : Nat) : (s.setRkv v).memRead sp a n = s.memRead sp a n := rfl
@[simp] theorem State.setRkv_aad (s : State) (v : Bool) : (s.setRkv v).aad = s.aad := rfl
@[simp] theorem State.setRkv_text (s : State) (v : Bool) : (s.setRkv v).text = s.text := rfl
@[simp] theorem State.setRkv_bufSize (s : State) (v : Bool) (sp : Space) : (s.setRkv v).bufSize sp = s.bufSize sp := by cases sp <;> rfl

/-! ### `State.setH` -/

@[simp] theorem State.setH_key (s : State) (v : Block) : (s.setH v).key = s.key := rfl
@[simp] theorem State.setH_iv (s : State) (v : Block) : (s.setH v).iv = s.iv := rfl
@[simp] theorem State.setH_alen (s : State) (v : Block) : (s.setH v).alen = s.alen := rfl
@[simp] theorem State.setH_dlen (s : State) (v : Block) : (s.setH v).dlen = s.dlen := rfl
@[simp] theorem State.setH_tag (s : State) (v : Block) : (s.setH v).tag = s.tag := rfl
@[simp] theorem State.setH_opa (s : State) (v : Block) : (s.setH v).opa = s.opa := rfl
@[simp] theorem State.setH_opb (s : State) (v : Block) : (s.setH v).opb = s.opb := rfl
@[simp] theorem State.setH_res (s : State) (v : Block) : (s.setH v).res = s.res := rfl
@[simp] theorem State.setH_keyv (s : State) (v : Block) : (s.setH v).keyv = s.keyv := rfl
@[simp] theorem State.setH_ivv (s : State) (v : Block) : (s.setH v).ivv = s.ivv := rfl
@[simp] theorem State.setH_rkv (s : State) (v : Block) : (s.setH v).rkv = s.rkv := rfl
@[simp] theorem State.setH_err (s : State) (v : Block) : (s.setH v).err = s.err := rfl
@[simp] theorem State.setH_rk (s : State) (v : Block) : (s.setH v).rk = s.rk := rfl
@[simp] theorem State.setH_h (s : State) (v : Block) : (s.setH v).h = v := rfl
@[simp] theorem State.setH_y (s : State) (v : Block) : (s.setH v).y = s.y := rfl
@[simp] theorem State.setH_ctr (s : State) (v : Block) : (s.setH v).ctr = s.ctr := rfl
@[simp] theorem State.setH_ej0 (s : State) (v : Block) : (s.setH v).ej0 = s.ej0 := rfl
@[simp] theorem State.setH_abuf (s : State) (v : Block) : (s.setH v).abuf = s.abuf := rfl
@[simp] theorem State.setH_ibuf (s : State) (v : Block) : (s.setH v).ibuf = s.ibuf := rfl
@[simp] theorem State.setH_obuf (s : State) (v : Block) : (s.setH v).obuf = s.obuf := rfl
@[simp] theorem State.setH_abufSize (s : State) (v : Block) : (s.setH v).abufSize = s.abufSize := rfl
@[simp] theorem State.setH_dbufSize (s : State) (v : Block) : (s.setH v).dbufSize = s.dbufSize := rfl
@[simp] theorem State.setH_resets (s : State) (v : Block) : (s.setH v).resets = s.resets := rfl
@[simp] theorem State.setH_releases (s : State) (v : Block) : (s.setH v).releases = s.releases := rfl
@[simp] theorem State.setH_inbox (s : State) (v : Block) : (s.setH v).inbox = s.inbox := rfl
@[simp] theorem State.setH_responses (s : State) (v : Block) : (s.setH v).responses = s.responses := rfl
@[simp] theorem State.setH_buf (s : State) (v : Block) (sp : Space) : (s.setH v).buf sp = s.buf sp := rfl
@[simp] theorem State.setH_bufByte (s : State) (v : Block) (sp : Space) (a : Nat) : (s.setH v).bufByte sp a = s.bufByte sp a := rfl
@[simp] theorem State.setH_memRead (s : State) (v : Block) (sp : Space) (a n : Nat) : (s.setH v).memRead sp a n = s.memRead sp a n := rfl
@[simp] theorem State.setH_aad (s : State) (v : Block) : (s.setH v).aad = s.aad := rfl
@[simp] theorem State.setH_text (s : State) (v : Block) : (s.setH v).text = s.text := rfl
@[simp] theorem State.setH_bufSize (s : State) (v : Block) (sp : Space) : (s.setH v).bufSize sp = s.bufSize sp := by cases sp <;> rfl

/-! ### `State.setY` -/

@[simp] theorem State.setY_key (s : State) (v : Block) : (s.setY v).key = s.key := rfl
@[simp] theorem State.setY_iv (s : State) (v : Block) : (s.setY v).iv = s.iv := rfl
@[simp] theorem State.setY_alen (s : State) (v : Block) : (s.setY v).alen = s.alen := rfl
@[simp] theorem State.setY_dlen (s : State) (v : Block) : (s.setY v).dlen = s.dlen := rfl
@[simp] theorem State.setY_tag (s : State) (v : Block) : (s.setY v).tag = s.tag := rfl
@[simp] theorem State.setY_opa (s : State) (v : Block) : (s.setY v).opa = s.opa := rfl
@[simp] theorem State.setY_opb (s : State) (v : Block) : (s.setY v).opb = s.opb := rfl
@[simp] theorem State.setY_res (s : State) (v : Block) : (s.setY v).res = s.res := rfl
@[simp] theorem State.setY_keyv (s : State) (v : Block) : (s.setY v).keyv = s.keyv := rfl
@[simp] theorem State.setY_ivv (s : State) (v : Block) : (s.setY v).ivv = s.ivv := rfl
@[simp] theorem State.setY_rkv (s : State) (v : Block) : (s.setY v).rkv = s.rkv := rfl
@[simp] theorem State.setY_err (s : State) (v : Block) : (s.setY v).err = s.err := rfl
@[simp] theorem State.setY_rk (s : State) (v : Block) : (s.setY v).rk = s.rk := rfl
@[simp] theorem State.setY_h (s : State) (v : Block) : (s.setY v).h = s.h := rfl
@[simp] theorem State.setY_y (s : State) (v : Block) : (s.setY v).y = v := rfl
@[simp] theorem State.setY_ctr (s : State) (v : Block) : (s.setY v).ctr = s.ctr := rfl
@[simp] theorem State.setY_ej0 (s : State) (v : Block) : (s.setY v).ej0 = s.ej0 := rfl
@[simp] theorem State.setY_abuf (s : State) (v : Block) : (s.setY v).abuf = s.abuf := rfl
@[simp] theorem State.setY_ibuf (s : State) (v : Block) : (s.setY v).ibuf = s.ibuf := rfl
@[simp] theorem State.setY_obuf (s : State) (v : Block) : (s.setY v).obuf = s.obuf := rfl
@[simp] theorem State.setY_abufSize (s : State) (v : Block) : (s.setY v).abufSize = s.abufSize := rfl
@[simp] theorem State.setY_dbufSize (s : State) (v : Block) : (s.setY v).dbufSize = s.dbufSize := rfl
@[simp] theorem State.setY_resets (s : State) (v : Block) : (s.setY v).resets = s.resets := rfl
@[simp] theorem State.setY_releases (s : State) (v : Block) : (s.setY v).releases = s.releases := rfl
@[simp] theorem State.setY_inbox (s : State) (v : Block) : (s.setY v).inbox = s.inbox := rfl
@[simp] theorem State.setY_responses (s : State) (v : Block) : (s.setY v).responses = s.responses := rfl
@[simp] theorem State.setY_buf (s : State) (v : Block) (sp : Space) : (s.setY v).buf sp = s.buf sp := rfl
@[simp] theorem State.setY_bufByte (s : State) (v : Block) (sp : Space) (a : Nat) : (s.setY v).bufByte sp a = s.bufByte sp a := rfl
@[simp] theorem State.setY_memRead (s : State) (v : Block) (sp : Space) (a n : Nat) : (s.setY v).memRead sp a n = s.memRead sp a n := rfl
@[simp] theorem State.setY_aad (s : State) (v : Block) : (s.setY v).aad = s.aad := rfl
@[simp] theorem State.setY_text (s : State) (v : Block) : (s.setY v).text = s.text := rfl
@[simp] theorem State.setY_bufSize (s : State) (v : Block) (sp : Space) : (s.setY v).bufSize sp = s.bufSize sp := by cases sp <;> rfl

/-! ### `State.setCtr` -/

@[simp] theorem State.setCtr_key (s : State) (v : Word) : (s.setCtr v).key = s.key := rfl
@[simp] theorem State.setCtr_iv (s : State) (v : Word) : (s.setCtr v).iv = s.iv := rfl
@[simp] theorem State.setCtr_alen (s : State) (v : Word) : (s.setCtr v).alen = s.alen := rfl
@[simp] theorem State.setCtr_dlen (s : State) (v : Word) : (s.setCtr v).dlen = s.dlen := rfl
@[simp] theorem State.setCtr_tag (s : State) (v : Word) : (s.setCtr v).tag = s.tag := rfl
@[simp] theorem State.setCtr_opa (s : State) (v : Word) : (s.setCtr v).opa = s.opa := rfl
@[simp] theorem State.setCtr_opb (s : State) (v : Word) : (s.setCtr v).opb = s.opb := rfl
@[simp] theorem State.setCtr_res (s : State) (v : Word) : (s.setCtr v).res = s.res := rfl
@[simp] theorem State.setCtr_keyv (s : State) (v : Word) : (s.setCtr v).keyv = s.keyv := rfl
@[simp] theorem State.setCtr_ivv (s : State) (v : Word) : (s.setCtr v).ivv = s.ivv := rfl
@[simp] theorem State.setCtr_rkv (s : State) (v : Word) : (s.setCtr v).rkv = s.rkv := rfl
@[simp] theorem State.setCtr_err (s : State) (v : Word) : (s.setCtr v).err = s.err := rfl
@[simp] theorem State.setCtr_rk (s : State) (v : Word) : (s.setCtr v).rk = s.rk := rfl
@[simp] theorem State.setCtr_h (s : State) (v : Word) : (s.setCtr v).h = s.h := rfl
@[simp] theorem State.setCtr_y (s : State) (v : Word) : (s.setCtr v).y = s.y := rfl
@[simp] theorem State.setCtr_ctr (s : State) (v : Word) : (s.setCtr v).ctr = v := rfl
@[simp] theorem State.setCtr_ej0 (s : State) (v : Word) : (s.setCtr v).ej0 = s.ej0 := rfl
@[simp] theorem State.setCtr_abuf (s : State) (v : Word) : (s.setCtr v).abuf = s.abuf := rfl
@[simp] theorem State.setCtr_ibuf (s : State) (v : Word) : (s.setCtr v).ibuf = s.ibuf := rfl
@[simp] theorem State.setCtr_obuf (s : State) (v : Word) : (s.setCtr v).obuf = s.obuf := rfl
@[simp] theorem State.setCtr_abufSize (s : State) (v : Word) : (s.setCtr v).abufSize = s.abufSize := rfl
@[simp] theorem State.setCtr_dbufSize (s : State) (v : Word) : (s.setCtr v).dbufSize = s.dbufSize := rfl
@[simp] theorem State.setCtr_resets (s : State) (v : Word) : (s.setCtr v).resets = s.resets := rfl
@[simp] theorem State.setCtr_releases (s : State) (v : Word) : (s.setCtr v).releases = s.releases := rfl
@[simp] theorem State.setCtr_inbox (s : State) (v : Word) : (s.setCtr v).inbox = s.inbox := rfl
@[simp] theorem State.setCtr_responses (s : State) (v : Word) : (s.setCtr v).responses = s.responses := rfl
@[simp] theorem State.setCtr_buf (s : State) (v : Word) (sp : Space) : (s.setCtr v).buf sp = s.buf sp := rfl
@[simp] theorem State.setCtr_bufByte (s : State) (v : Word) (sp : Space) (a : Nat) : (s.setCtr v).bufByte sp a = s.bufByte sp a := rfl
@[simp] theorem State.setCtr_memRead (s : State) (v : Word) (sp : Space) (a n : Nat) : (s.setCtr v).memRead sp a n = s.memRead sp a n := rfl
@[simp] theorem State.setCtr_aad (s : State) (v : Word) : (s.setCtr v).aad = s.aad := rfl
@[simp] theorem State.setCtr_text (s : State) (v : Word) : (s.setCtr v).text = s.text := rfl
@[simp] theorem State.setCtr_bufSize (s : State) (v : Word) (sp : Space) : (s.setCtr v).bufSize sp = s.bufSize sp := by cases sp <;> rfl

/-! ### `State.setEj0` -/

@[simp] theorem State.setEj0_key (s : State) (v : Block) : (s.setEj0 v).key = s.key := rfl
@[simp] theorem State.setEj0_iv (s : State) (v : Block) : (s.setEj0 v).iv = s.iv := rfl
@[simp] theorem State.setEj0_alen (s : State) (v : Block) : (s.setEj0 v).alen = s.alen := rfl
@[simp] theorem State.setEj0_dlen (s : State) (v : Block) : (s.setEj0 v).dlen = s.dlen := rfl
@[simp] theorem State.setEj0_tag (s : State) (v : Block) : (s.setEj0 v).tag = s.tag := rfl
@[simp] theorem State.setEj0_opa (s : State) (v : Block) : (s.setEj0 v).opa = s.opa := rfl
@[simp] theorem State.setEj0_opb (s : State) (v : Block) : (s.setEj0 v).opb = s.opb := rfl
@[simp] theorem State.setEj0_res (s : State) (v : Block) : (s.setEj0 v).res = s.res := rfl
@[simp] theorem State.setEj0_keyv (s : State) (v : Block) : (s.setEj0 v).keyv = s.keyv := rfl
@[simp] theorem State.setEj0_ivv (s : State) (v : Block) : (s.setEj0 v).ivv = s.ivv := rfl
@[simp] theorem State.setEj0_rkv (s : State) (v : Block) : (s.setEj0 v).rkv = s.rkv := rfl
@[simp] theorem State.setEj0_err (s : State) (v : Block) : (s.setEj0 v).err = s.err := rfl
@[simp] theorem State.setEj0_rk (s : State) (v : Block) : (s.setEj0 v).rk = s.rk := rfl
@[simp] theorem State.setEj0_h (s : State) (v : Block) : (s.setEj0 v).h = s.h := rfl
@[simp] theorem State.setEj0_y (s : State) (v : Block) : (s.setEj0 v).y = s.y := rfl
@[simp] theorem State.setEj0_ctr (s : State) (v : Block) : (s.setEj0 v).ctr = s.ctr := rfl
@[simp] theorem State.setEj0_ej0 (s : State) (v : Block) : (s.setEj0 v).ej0 = v := rfl
@[simp] theorem State.setEj0_abuf (s : State) (v : Block) : (s.setEj0 v).abuf = s.abuf := rfl
@[simp] theorem State.setEj0_ibuf (s : State) (v : Block) : (s.setEj0 v).ibuf = s.ibuf := rfl
@[simp] theorem State.setEj0_obuf (s : State) (v : Block) : (s.setEj0 v).obuf = s.obuf := rfl
@[simp] theorem State.setEj0_abufSize (s : State) (v : Block) : (s.setEj0 v).abufSize = s.abufSize := rfl
@[simp] theorem State.setEj0_dbufSize (s : State) (v : Block) : (s.setEj0 v).dbufSize = s.dbufSize := rfl
@[simp] theorem State.setEj0_resets (s : State) (v : Block) : (s.setEj0 v).resets = s.resets := rfl
@[simp] theorem State.setEj0_releases (s : State) (v : Block) : (s.setEj0 v).releases = s.releases := rfl
@[simp] theorem State.setEj0_inbox (s : State) (v : Block) : (s.setEj0 v).inbox = s.inbox := rfl
@[simp] theorem State.setEj0_responses (s : State) (v : Block) : (s.setEj0 v).responses = s.responses := rfl
@[simp] theorem State.setEj0_buf (s : State) (v : Block) (sp : Space) : (s.setEj0 v).buf sp = s.buf sp := rfl
@[simp] theorem State.setEj0_bufByte (s : State) (v : Block) (sp : Space) (a : Nat) : (s.setEj0 v).bufByte sp a = s.bufByte sp a := rfl
@[simp] theorem State.setEj0_memRead (s : State) (v : Block) (sp : Space) (a n : Nat) : (s.setEj0 v).memRead sp a n = s.memRead sp a n := rfl
@[simp] theorem State.setEj0_aad (s : State) (v : Block) : (s.setEj0 v).aad = s.aad := rfl
@[simp] theorem State.setEj0_text (s : State) (v : Block) : (s.setEj0 v).text = s.text := rfl
@[simp] theorem State.setEj0_bufSize (s : State) (v : Block) (sp : Space) : (s.setEj0 v).bufSize sp = s.bufSize sp := by cases sp <;> rfl

/-! ### `State.releaseWorking` -/

@[simp] theorem State.releaseWorking_key (s : State) : s.releaseWorking.key = s.key := rfl
@[simp] theorem State.releaseWorking_iv (s : State) : s.releaseWorking.iv = s.iv := rfl
@[simp] theorem State.releaseWorking_alen (s : State) : s.releaseWorking.alen = s.alen := rfl
@[simp] theorem State.releaseWorking_dlen (s : State) : s.releaseWorking.dlen = s.dlen := rfl
@[simp] theorem State.releaseWorking_tag (s : State) : s.releaseWorking.tag = s.tag := rfl
@[simp] theorem State.releaseWorking_opa (s : State) : s.releaseWorking.opa = s.opa := rfl
@[simp] theorem State.releaseWorking_opb (s : State) : s.releaseWorking.opb = s.opb := rfl
@[simp] theorem State.releaseWorking_res (s : State) : s.releaseWorking.res = s.res := rfl
@[simp] theorem State.releaseWorking_keyv (s : State) : s.releaseWorking.keyv = s.keyv := rfl
@[simp] theorem State.releaseWorking_ivv (s : State) : s.releaseWorking.ivv = s.ivv := rfl
@[simp] theorem State.releaseWorking_rkv (s : State) : s.releaseWorking.rkv = s.rkv := rfl
@[simp] theorem State.releaseWorking_err (s : State) : s.releaseWorking.err = s.err := rfl
@[simp] theorem State.releaseWorking_rk (s : State) : s.releaseWorking.rk = s.rk := rfl
@[simp] theorem State.releaseWorking_h (s : State) : s.releaseWorking.h = Config.freeH s.releases := rfl
@[simp] theorem State.releaseWorking_y (s : State) : s.releaseWorking.y = Config.freeY s.releases := rfl
@[simp] theorem State.releaseWorking_ctr (s : State) : s.releaseWorking.ctr = Config.freeCtr s.releases := rfl
@[simp] theorem State.releaseWorking_ej0 (s : State) : s.releaseWorking.ej0 = Config.freeEj0 s.releases := rfl
@[simp] theorem State.releaseWorking_abuf (s : State) : s.releaseWorking.abuf = s.abuf := rfl
@[simp] theorem State.releaseWorking_ibuf (s : State) : s.releaseWorking.ibuf = s.ibuf := rfl
@[simp] theorem State.releaseWorking_obuf (s : State) : s.releaseWorking.obuf = s.obuf := rfl
@[simp] theorem State.releaseWorking_abufSize (s : State) : s.releaseWorking.abufSize = s.abufSize := rfl
@[simp] theorem State.releaseWorking_dbufSize (s : State) : s.releaseWorking.dbufSize = s.dbufSize := rfl
@[simp] theorem State.releaseWorking_resets (s : State) : s.releaseWorking.resets = s.resets := rfl
@[simp] theorem State.releaseWorking_releases (s : State) : s.releaseWorking.releases = s.releases + 1 := rfl
@[simp] theorem State.releaseWorking_inbox (s : State) : s.releaseWorking.inbox = s.inbox := rfl
@[simp] theorem State.releaseWorking_responses (s : State) : s.releaseWorking.responses = s.responses := rfl
@[simp] theorem State.releaseWorking_buf (s : State) (sp : Space) : s.releaseWorking.buf sp = s.buf sp := rfl
@[simp] theorem State.releaseWorking_bufByte (s : State) (sp : Space) (a : Nat) : s.releaseWorking.bufByte sp a = s.bufByte sp a := rfl
@[simp] theorem State.releaseWorking_memRead (s : State) (sp : Space) (a n : Nat) : s.releaseWorking.memRead sp a n = s.memRead sp a n := rfl
@[simp] theorem State.releaseWorking_aad (s : State) : s.releaseWorking.aad = s.aad := rfl
@[simp] theorem State.releaseWorking_text (s : State) : s.releaseWorking.text = s.text := rfl
@[simp] theorem State.releaseWorking_bufSize (s : State) (sp : Space) : s.releaseWorking.bufSize sp = s.bufSize sp := by cases sp <;> rfl

/-! ### `State.zeroKeys` -/

@[simp] theorem State.zeroKeys_key (s : State) : s.zeroKeys.key = 0 := rfl
@[simp] theorem State.zeroKeys_iv (s : State) : s.zeroKeys.iv = 0 := rfl
@[simp] theorem State.zeroKeys_alen (s : State) : s.zeroKeys.alen = s.alen := rfl
@[simp] theorem State.zeroKeys_dlen (s : State) : s.zeroKeys.dlen = s.dlen := rfl
@[simp] theorem State.zeroKeys_tag (s : State) : s.zeroKeys.tag = s.tag := rfl
@[simp] theorem State.zeroKeys_opa (s : State) : s.zeroKeys.opa = s.opa := rfl
@[simp] theorem State.zeroKeys_opb (s : State) : s.zeroKeys.opb = s.opb := rfl
@[simp] theorem State.zeroKeys_res (s : State) : s.zeroKeys.res = s.res := rfl
@[simp] theorem State.zeroKeys_keyv (s : State) : s.zeroKeys.keyv = false := rfl
@[simp] theorem State.zeroKeys_ivv (s : State) : s.zeroKeys.ivv = false := rfl
@[simp] theorem State.zeroKeys_rkv (s : State) : s.zeroKeys.rkv = false := rfl
@[simp] theorem State.zeroKeys_err (s : State) : s.zeroKeys.err = s.err := rfl
@[simp] theorem State.zeroKeys_rk (s : State) : s.zeroKeys.rk = Vector.replicate 11 0 := rfl
@[simp] theorem State.zeroKeys_h (s : State) : s.zeroKeys.h = s.h := rfl
@[simp] theorem State.zeroKeys_y (s : State) : s.zeroKeys.y = s.y := rfl
@[simp] theorem State.zeroKeys_ctr (s : State) : s.zeroKeys.ctr = s.ctr := rfl
@[simp] theorem State.zeroKeys_ej0 (s : State) : s.zeroKeys.ej0 = s.ej0 := rfl
@[simp] theorem State.zeroKeys_abuf (s : State) : s.zeroKeys.abuf = s.abuf := rfl
@[simp] theorem State.zeroKeys_ibuf (s : State) : s.zeroKeys.ibuf = s.ibuf := rfl
@[simp] theorem State.zeroKeys_obuf (s : State) : s.zeroKeys.obuf = s.obuf := rfl
@[simp] theorem State.zeroKeys_abufSize (s : State) : s.zeroKeys.abufSize = s.abufSize := rfl
@[simp] theorem State.zeroKeys_dbufSize (s : State) : s.zeroKeys.dbufSize = s.dbufSize := rfl
@[simp] theorem State.zeroKeys_resets (s : State) : s.zeroKeys.resets = s.resets := rfl
@[simp] theorem State.zeroKeys_releases (s : State) : s.zeroKeys.releases = s.releases := rfl
@[simp] theorem State.zeroKeys_inbox (s : State) : s.zeroKeys.inbox = s.inbox := rfl
@[simp] theorem State.zeroKeys_responses (s : State) : s.zeroKeys.responses = s.responses := rfl
@[simp] theorem State.zeroKeys_buf (s : State) (sp : Space) : s.zeroKeys.buf sp = s.buf sp := rfl
@[simp] theorem State.zeroKeys_bufByte (s : State) (sp : Space) (a : Nat) : s.zeroKeys.bufByte sp a = s.bufByte sp a := rfl
@[simp] theorem State.zeroKeys_memRead (s : State) (sp : Space) (a n : Nat) : s.zeroKeys.memRead sp a n = s.memRead sp a n := rfl
@[simp] theorem State.zeroKeys_aad (s : State) : s.zeroKeys.aad = s.aad := rfl
@[simp] theorem State.zeroKeys_text (s : State) : s.zeroKeys.text = s.text := rfl
@[simp] theorem State.zeroKeys_bufSize (s : State) (sp : Space) : s.zeroKeys.bufSize sp = s.bufSize sp := by cases sp <;> rfl

/-! ### `State.clearRegisters` -/

@[simp] theorem State.clearRegisters_key (s : State) : s.clearRegisters.key = 0 := rfl
@[simp] theorem State.clearRegisters_iv (s : State) : s.clearRegisters.iv = 0 := rfl
@[simp] theorem State.clearRegisters_alen (s : State) : s.clearRegisters.alen = 0 := rfl
@[simp] theorem State.clearRegisters_dlen (s : State) : s.clearRegisters.dlen = 0 := rfl
@[simp] theorem State.clearRegisters_tag (s : State) : s.clearRegisters.tag = 0 := rfl
@[simp] theorem State.clearRegisters_opa (s : State) : s.clearRegisters.opa = 0 := rfl
@[simp] theorem State.clearRegisters_opb (s : State) : s.clearRegisters.opb = 0 := rfl
@[simp] theorem State.clearRegisters_res (s : State) : s.clearRegisters.res = 0 := rfl
@[simp] theorem State.clearRegisters_keyv (s : State) : s.clearRegisters.keyv = false := rfl
@[simp] theorem State.clearRegisters_ivv (s : State) : s.clearRegisters.ivv = false := rfl
@[simp] theorem State.clearRegisters_rkv (s : State) : s.clearRegisters.rkv = false := rfl
@[simp] theorem State.clearRegisters_err (s : State) : s.clearRegisters.err = ErrCode.ok.code := rfl
@[simp] theorem State.clearRegisters_rk (s : State) : s.clearRegisters.rk = Vector.replicate 11 0 := rfl
@[simp] theorem State.clearRegisters_h (s : State) : s.clearRegisters.h = s.h := rfl
@[simp] theorem State.clearRegisters_y (s : State) : s.clearRegisters.y = s.y := rfl
@[simp] theorem State.clearRegisters_ctr (s : State) : s.clearRegisters.ctr = s.ctr := rfl
@[simp] theorem State.clearRegisters_ej0 (s : State) : s.clearRegisters.ej0 = s.ej0 := rfl
@[simp] theorem State.clearRegisters_abuf (s : State) : s.clearRegisters.abuf = s.abuf := rfl
@[simp] theorem State.clearRegisters_ibuf (s : State) : s.clearRegisters.ibuf = s.ibuf := rfl
@[simp] theorem State.clearRegisters_obuf (s : State) : s.clearRegisters.obuf = s.obuf := rfl
@[simp] theorem State.clearRegisters_abufSize (s : State) : s.clearRegisters.abufSize = s.abufSize := rfl
@[simp] theorem State.clearRegisters_dbufSize (s : State) : s.clearRegisters.dbufSize = s.dbufSize := rfl
@[simp] theorem State.clearRegisters_resets (s : State) : s.clearRegisters.resets = s.resets := rfl
@[simp] theorem State.clearRegisters_releases (s : State) : s.clearRegisters.releases = s.releases := rfl
@[simp] theorem State.clearRegisters_inbox (s : State) : s.clearRegisters.inbox = s.inbox := rfl
@[simp] theorem State.clearRegisters_responses (s : State) : s.clearRegisters.responses = s.responses := rfl
@[simp] theorem State.clearRegisters_buf (s : State) (sp : Space) : s.clearRegisters.buf sp = s.buf sp := rfl
@[simp] theorem State.clearRegisters_bufByte (s : State) (sp : Space) (a : Nat) : s.clearRegisters.bufByte sp a = s.bufByte sp a := rfl
@[simp] theorem State.clearRegisters_memRead (s : State) (sp : Space) (a n : Nat) : s.clearRegisters.memRead sp a n = s.memRead sp a n := rfl
@[simp] theorem State.clearRegisters_bufSize (s : State) (sp : Space) : s.clearRegisters.bufSize sp = s.bufSize sp := by cases sp <;> rfl

/-! ### `State.forgetBuffers` -/

@[simp] theorem State.forgetBuffers_key (s : State) : s.forgetBuffers.key = s.key := rfl
@[simp] theorem State.forgetBuffers_iv (s : State) : s.forgetBuffers.iv = s.iv := rfl
@[simp] theorem State.forgetBuffers_alen (s : State) : s.forgetBuffers.alen = s.alen := rfl
@[simp] theorem State.forgetBuffers_dlen (s : State) : s.forgetBuffers.dlen = s.dlen := rfl
@[simp] theorem State.forgetBuffers_tag (s : State) : s.forgetBuffers.tag = s.tag := rfl
@[simp] theorem State.forgetBuffers_opa (s : State) : s.forgetBuffers.opa = s.opa := rfl
@[simp] theorem State.forgetBuffers_opb (s : State) : s.forgetBuffers.opb = s.opb := rfl
@[simp] theorem State.forgetBuffers_res (s : State) : s.forgetBuffers.res = s.res := rfl
@[simp] theorem State.forgetBuffers_keyv (s : State) : s.forgetBuffers.keyv = s.keyv := rfl
@[simp] theorem State.forgetBuffers_ivv (s : State) : s.forgetBuffers.ivv = s.ivv := rfl
@[simp] theorem State.forgetBuffers_rkv (s : State) : s.forgetBuffers.rkv = s.rkv := rfl
@[simp] theorem State.forgetBuffers_err (s : State) : s.forgetBuffers.err = s.err := rfl
@[simp] theorem State.forgetBuffers_rk (s : State) : s.forgetBuffers.rk = s.rk := rfl
@[simp] theorem State.forgetBuffers_h (s : State) : s.forgetBuffers.h = s.h := rfl
@[simp] theorem State.forgetBuffers_y (s : State) : s.forgetBuffers.y = s.y := rfl
@[simp] theorem State.forgetBuffers_ctr (s : State) : s.forgetBuffers.ctr = s.ctr := rfl
@[simp] theorem State.forgetBuffers_ej0 (s : State) : s.forgetBuffers.ej0 = s.ej0 := rfl
@[simp] theorem State.forgetBuffers_abuf (s : State) : s.forgetBuffers.abuf = [] := rfl
@[simp] theorem State.forgetBuffers_ibuf (s : State) : s.forgetBuffers.ibuf = [] := rfl
@[simp] theorem State.forgetBuffers_obuf (s : State) : s.forgetBuffers.obuf = [] := rfl
@[simp] theorem State.forgetBuffers_abufSize (s : State) : s.forgetBuffers.abufSize = s.abufSize := rfl
@[simp] theorem State.forgetBuffers_dbufSize (s : State) : s.forgetBuffers.dbufSize = s.dbufSize := rfl
@[simp] theorem State.forgetBuffers_resets (s : State) : s.forgetBuffers.resets = s.resets + 1 := rfl
@[simp] theorem State.forgetBuffers_releases (s : State) : s.forgetBuffers.releases = s.releases := rfl
@[simp] theorem State.forgetBuffers_inbox (s : State) : s.forgetBuffers.inbox = s.inbox := rfl
@[simp] theorem State.forgetBuffers_responses (s : State) : s.forgetBuffers.responses = s.responses := rfl
@[simp] theorem State.forgetBuffers_bufSize (s : State) (sp : Space) : s.forgetBuffers.bufSize sp = s.bufSize sp := by cases sp <;> rfl

/-! ### `State.setInbox` -/

@[simp] theorem State.setInbox_key (s : State) (q : List HostEvent) : (s.setInbox q).key = s.key := rfl
@[simp] theorem State.setInbox_iv (s : State) (q : List HostEvent) : (s.setInbox q).iv = s.iv := rfl
@[simp] theorem State.setInbox_alen (s : State) (q : List HostEvent) : (s.setInbox q).alen = s.alen := rfl
@[simp] theorem State.setInbox_dlen (s : State) (q : List HostEvent) : (s.setInbox q).dlen = s.dlen := rfl
@[simp] theorem State.setInbox_tag (s : State) (q : List HostEvent) : (s.setInbox q).tag = s.tag := rfl
@[simp] theorem State.setInbox_opa (s : State) (q : List HostEvent) : (s.setInbox q).opa = s.opa := rfl
@[simp] theorem State.setInbox_opb (s : State) (q : List HostEvent) : (s.setInbox q).opb = s.opb := rfl
@[simp] theorem State.setInbox_res (s : State) (q : List HostEvent) : (s.setInbox q).res = s.res := rfl
@[simp] theorem State.setInbox_keyv (s : State) (q : List HostEvent) : (s.setInbox q).keyv = s.keyv := rfl
@[simp] theorem State.setInbox_ivv (s : State) (q : List HostEvent) : (s.setInbox q).ivv = s.ivv := rfl
@[simp] theorem State.setInbox_rkv (s : State) (q : List HostEvent) : (s.setInbox q).rkv = s.rkv := rfl
@[simp] theorem State.setInbox_err (s : State) (q : List HostEvent) : (s.setInbox q).err = s.err := rfl
@[simp] theorem State.setInbox_rk (s : State) (q : List HostEvent) : (s.setInbox q).rk = s.rk := rfl
@[simp] theorem State.setInbox_h (s : State) (q : List HostEvent) : (s.setInbox q).h = s.h := rfl
@[simp] theorem State.setInbox_y (s : State) (q : List HostEvent) : (s.setInbox q).y = s.y := rfl
@[simp] theorem State.setInbox_ctr (s : State) (q : List HostEvent) : (s.setInbox q).ctr = s.ctr := rfl
@[simp] theorem State.setInbox_ej0 (s : State) (q : List HostEvent) : (s.setInbox q).ej0 = s.ej0 := rfl
@[simp] theorem State.setInbox_abuf (s : State) (q : List HostEvent) : (s.setInbox q).abuf = s.abuf := rfl
@[simp] theorem State.setInbox_ibuf (s : State) (q : List HostEvent) : (s.setInbox q).ibuf = s.ibuf := rfl
@[simp] theorem State.setInbox_obuf (s : State) (q : List HostEvent) : (s.setInbox q).obuf = s.obuf := rfl
@[simp] theorem State.setInbox_abufSize (s : State) (q : List HostEvent) : (s.setInbox q).abufSize = s.abufSize := rfl
@[simp] theorem State.setInbox_dbufSize (s : State) (q : List HostEvent) : (s.setInbox q).dbufSize = s.dbufSize := rfl
@[simp] theorem State.setInbox_resets (s : State) (q : List HostEvent) : (s.setInbox q).resets = s.resets := rfl
@[simp] theorem State.setInbox_releases (s : State) (q : List HostEvent) : (s.setInbox q).releases = s.releases := rfl
@[simp] theorem State.setInbox_inbox (s : State) (q : List HostEvent) : (s.setInbox q).inbox = q := rfl
@[simp] theorem State.setInbox_responses (s : State) (q : List HostEvent) : (s.setInbox q).responses = s.responses := rfl
@[simp] theorem State.setInbox_buf (s : State) (q : List HostEvent) (sp : Space) : (s.setInbox q).buf sp = s.buf sp := rfl
@[simp] theorem State.setInbox_bufByte (s : State) (q : List HostEvent) (sp : Space) (a : Nat) : (s.setInbox q).bufByte sp a = s.bufByte sp a := rfl
@[simp] theorem State.setInbox_memRead (s : State) (q : List HostEvent) (sp : Space) (a n : Nat) : (s.setInbox q).memRead sp a n = s.memRead sp a n := rfl
@[simp] theorem State.setInbox_aad (s : State) (q : List HostEvent) : (s.setInbox q).aad = s.aad := rfl
@[simp] theorem State.setInbox_text (s : State) (q : List HostEvent) : (s.setInbox q).text = s.text := rfl
@[simp] theorem State.setInbox_bufSize (s : State) (q : List HostEvent) (sp : Space) : (s.setInbox q).bufSize sp = s.bufSize sp := by cases sp <;> rfl

/-! ### `State.respond` -/

@[simp] theorem State.respond_key (s : State) (r : Response) : (s.respond r).key = s.key := rfl
@[simp] theorem State.respond_iv (s : State) (r : Response) : (s.respond r).iv = s.iv := rfl
@[simp] theorem State.respond_alen (s : State) (r : Response) : (s.respond r).alen = s.alen := rfl
@[simp] theorem State.respond_dlen (s : State) (r : Response) : (s.respond r).dlen = s.dlen := rfl
@[simp] theorem State.respond_tag (s : State) (r : Response) : (s.respond r).tag = s.tag := rfl
@[simp] theorem State.respond_opa (s : State) (r : Response) : (s.respond r).opa = s.opa := rfl
@[simp] theorem State.respond_opb (s : State) (r : Response) : (s.respond r).opb = s.opb := rfl
@[simp] theorem State.respond_res (s : State) (r : Response) : (s.respond r).res = s.res := rfl
@[simp] theorem State.respond_keyv (s : State) (r : Response) : (s.respond r).keyv = s.keyv := rfl
@[simp] theorem State.respond_ivv (s : State) (r : Response) : (s.respond r).ivv = s.ivv := rfl
@[simp] theorem State.respond_rkv (s : State) (r : Response) : (s.respond r).rkv = s.rkv := rfl
@[simp] theorem State.respond_err (s : State) (r : Response) : (s.respond r).err = s.err := rfl
@[simp] theorem State.respond_rk (s : State) (r : Response) : (s.respond r).rk = s.rk := rfl
@[simp] theorem State.respond_h (s : State) (r : Response) : (s.respond r).h = s.h := rfl
@[simp] theorem State.respond_y (s : State) (r : Response) : (s.respond r).y = s.y := rfl
@[simp] theorem State.respond_ctr (s : State) (r : Response) : (s.respond r).ctr = s.ctr := rfl
@[simp] theorem State.respond_ej0 (s : State) (r : Response) : (s.respond r).ej0 = s.ej0 := rfl
@[simp] theorem State.respond_abuf (s : State) (r : Response) : (s.respond r).abuf = s.abuf := rfl
@[simp] theorem State.respond_ibuf (s : State) (r : Response) : (s.respond r).ibuf = s.ibuf := rfl
@[simp] theorem State.respond_obuf (s : State) (r : Response) : (s.respond r).obuf = s.obuf := rfl
@[simp] theorem State.respond_abufSize (s : State) (r : Response) : (s.respond r).abufSize = s.abufSize := rfl
@[simp] theorem State.respond_dbufSize (s : State) (r : Response) : (s.respond r).dbufSize = s.dbufSize := rfl
@[simp] theorem State.respond_resets (s : State) (r : Response) : (s.respond r).resets = s.resets := rfl
@[simp] theorem State.respond_releases (s : State) (r : Response) : (s.respond r).releases = s.releases := rfl
@[simp] theorem State.respond_inbox (s : State) (r : Response) : (s.respond r).inbox = s.inbox := rfl
@[simp] theorem State.respond_responses (s : State) (r : Response) : (s.respond r).responses = s.responses ++ [r] := rfl
@[simp] theorem State.respond_buf (s : State) (r : Response) (sp : Space) : (s.respond r).buf sp = s.buf sp := rfl
@[simp] theorem State.respond_bufByte (s : State) (r : Response) (sp : Space) (a : Nat) : (s.respond r).bufByte sp a = s.bufByte sp a := rfl
@[simp] theorem State.respond_memRead (s : State) (r : Response) (sp : Space) (a n : Nat) : (s.respond r).memRead sp a n = s.memRead sp a n := rfl
@[simp] theorem State.respond_aad (s : State) (r : Response) : (s.respond r).aad = s.aad := rfl
@[simp] theorem State.respond_text (s : State) (r : Response) : (s.respond r).text = s.text := rfl
@[simp] theorem State.respond_bufSize (s : State) (r : Response) (sp : Space) : (s.respond r).bufSize sp = s.bufSize sp := by cases sp <;> rfl

/-! ### `State.setBuf` and `State.memWrite` -/

@[simp] theorem State.setBuf_key (s : State) (sp : Space) (m : Memory) : (s.setBuf sp m).key = s.key := by cases sp <;> rfl
@[simp] theorem State.setBuf_iv (s : State) (sp : Space) (m : Memory) : (s.setBuf sp m).iv = s.iv := by cases sp <;> rfl
@[simp] theorem State.setBuf_alen (s : State) (sp : Space) (m : Memory) : (s.setBuf sp m).alen = s.alen := by cases sp <;> rfl
@[simp] theorem State.setBuf_dlen (s : State) (sp : Space) (m : Memory) : (s.setBuf sp m).dlen = s.dlen := by cases sp <;> rfl
@[simp] theorem State.setBuf_tag (s : State) (sp : Space) (m : Memory) : (s.setBuf sp m).tag = s.tag := by cases sp <;> rfl
@[simp] theorem State.setBuf_opa (s : State) (sp : Space) (m : Memory) : (s.setBuf sp m).opa = s.opa := by cases sp <;> rfl
@[simp] theorem State.setBuf_opb (s : State) (sp : Space) (m : Memory) : (s.setBuf sp m).opb = s.opb := by cases sp <;> rfl
@[simp] theorem State.setBuf_res (s : State) (sp : Space) (m : Memory) : (s.setBuf sp m).res = s.res := by cases sp <;> rfl
@[simp] theorem State.setBuf_keyv (s : State) (sp : Space) (m : Memory) : (s.setBuf sp m).keyv = s.keyv := by cases sp <;> rfl
@[simp] theorem State.setBuf_ivv (s : State) (sp : Space) (m : Memory) : (s.setBuf sp m).ivv = s.ivv := by cases sp <;> rfl
@[simp] theorem State.setBuf_rkv (s : State) (sp : Space) (m : Memory) : (s.setBuf sp m).rkv = s.rkv := by cases sp <;> rfl
@[simp] theorem State.setBuf_err (s : State) (sp : Space) (m : Memory) : (s.setBuf sp m).err = s.err := by cases sp <;> rfl
@[simp] theorem State.setBuf_rk (s : State) (sp : Space) (m : Memory) : (s.setBuf sp m).rk = s.rk := by cases sp <;> rfl
@[simp] theorem State.setBuf_h (s : State) (sp : Space) (m : Memory) : (s.setBuf sp m).h = s.h := by cases sp <;> rfl
@[simp] theorem State.setBuf_y (s : State) (sp : Space) (m : Memory) : (s.setBuf sp m).y = s.y := by cases sp <;> rfl
@[simp] theorem State.setBuf_ctr (s : State) (sp : Space) (m : Memory) : (s.setBuf sp m).ctr = s.ctr := by cases sp <;> rfl
@[simp] theorem State.setBuf_ej0 (s : State) (sp : Space) (m : Memory) : (s.setBuf sp m).ej0 = s.ej0 := by cases sp <;> rfl
@[simp] theorem State.setBuf_abufSize (s : State) (sp : Space) (m : Memory) : (s.setBuf sp m).abufSize = s.abufSize := by cases sp <;> rfl
@[simp] theorem State.setBuf_dbufSize (s : State) (sp : Space) (m : Memory) : (s.setBuf sp m).dbufSize = s.dbufSize := by cases sp <;> rfl
@[simp] theorem State.setBuf_resets (s : State) (sp : Space) (m : Memory) : (s.setBuf sp m).resets = s.resets := by cases sp <;> rfl
@[simp] theorem State.setBuf_releases (s : State) (sp : Space) (m : Memory) : (s.setBuf sp m).releases = s.releases := by cases sp <;> rfl
@[simp] theorem State.setBuf_inbox (s : State) (sp : Space) (m : Memory) : (s.setBuf sp m).inbox = s.inbox := by cases sp <;> rfl
@[simp] theorem State.setBuf_responses (s : State) (sp : Space) (m : Memory) : (s.setBuf sp m).responses = s.responses := by cases sp <;> rfl
@[simp] theorem State.setBuf_bufSize (s : State) (sp : Space) (m : Memory) (sp2 : Space) : (s.setBuf sp m).bufSize sp2 = s.bufSize sp2 := by cases sp <;> cases sp2 <;> rfl
@[simp] theorem State.memWrite_key (s : State) (sp : Space) (a : Nat) (v : List Byte) : (s.memWrite sp a v).key = s.key := by cases sp <;> rfl
@[simp] theorem State.memWrite_iv (s : State) (sp : Space) (a : Nat) (v : List Byte) : (s.memWrite sp a v).iv = s.iv := by cases sp <;> rfl
@[simp] theorem State.memWrite_alen (s : State) (sp : Space) (a : Nat) (v : List Byte) : (s.memWrite sp a v).alen = s.alen := by cases sp <;> rfl
@[simp] theorem State.memWrite_dlen (s : State) (sp : Space) (a : Nat) (v : List Byte) : (s.memWrite sp a v).dlen = s.dlen := by cases sp <;> rfl
@[simp] theorem State.memWrite_tag (s : State) (sp : Space) (a : Nat) (v : List Byte) : (s.memWrite sp a v).tag = s.tag := by cases sp <;> rfl
@[simp] theorem State.memWrite_opa (s : State) (sp : Space) (a : Nat) (v : List Byte) : (s.memWrite sp a v).opa = s.opa := by cases sp <;> rfl
@[simp] theorem State.memWrite_opb (s : State) (sp : Space) (a : Nat) (v : List Byte) : (s.memWrite sp a v).opb = s.opb := by cases sp <;> rfl
@[simp] theorem State.memWrite_res (s : State) (sp : Space) (a : Nat) (v : List Byte) : (s.memWrite sp a v).res = s.res := by cases sp <;> rfl
@[simp] theorem State.memWrite_keyv (s : State) (sp : Space) (a : Nat) (v : List Byte) : (s.memWrite sp a v).keyv = s.keyv := by cases sp <;> rfl
@[simp] theorem State.memWrite_ivv (s : State) (sp : Space) (a : Nat) (v : List Byte) : (s.memWrite sp a v).ivv = s.ivv := by cases sp <;> rfl
@[simp] theorem State.memWrite_rkv (s : State) (sp : Space) (a : Nat) (v : List Byte) : (s.memWrite sp a v).rkv = s.rkv := by cases sp <;> rfl
@[simp] theorem State.memWrite_err (s : State) (sp : Space) (a : Nat) (v : List Byte) : (s.memWrite sp a v).err = s.err := by cases sp <;> rfl
@[simp] theorem State.memWrite_rk (s : State) (sp : Space) (a : Nat) (v : List Byte) : (s.memWrite sp a v).rk = s.rk := by cases sp <;> rfl
@[simp] theorem State.memWrite_h (s : State) (sp : Space) (a : Nat) (v : List Byte) : (s.memWrite sp a v).h = s.h := by cases sp <;> rfl
@[simp] theorem State.memWrite_y (s : State) (sp : Space) (a : Nat) (v : List Byte) : (s.memWrite sp a v).y = s.y := by cases sp <;> rfl
@[simp] theorem State.memWrite_ctr (s : State) (sp : Space) (a : Nat) (v : List Byte) : (s.memWrite sp a v).ctr = s.ctr := by cases sp <;> rfl
@[simp] theorem State.memWrite_ej0 (s : State) (sp : Space) (a : Nat) (v : List Byte) : (s.memWrite sp a v).ej0 = s.ej0 := by cases sp <;> rfl
@[simp] theorem State.memWrite_abufSize (s : State) (sp : Space) (a : Nat) (v : List Byte) : (s.memWrite sp a v).abufSize = s.abufSize := by cases sp <;> rfl
@[simp] theorem State.memWrite_dbufSize (s : State) (sp : Space) (a : Nat) (v : List Byte) : (s.memWrite sp a v).dbufSize = s.dbufSize := by cases sp <;> rfl
@[simp] theorem State.memWrite_resets (s : State) (sp : Space) (a : Nat) (v : List Byte) : (s.memWrite sp a v).resets = s.resets := by cases sp <;> rfl
@[simp] theorem State.memWrite_releases (s : State) (sp : Space) (a : Nat) (v : List Byte) : (s.memWrite sp a v).releases = s.releases := by cases sp <;> rfl
@[simp] theorem State.memWrite_inbox (s : State) (sp : Space) (a : Nat) (v : List Byte) : (s.memWrite sp a v).inbox = s.inbox := by cases sp <;> rfl
@[simp] theorem State.memWrite_responses (s : State) (sp : Space) (a : Nat) (v : List Byte) : (s.memWrite sp a v).responses = s.responses := by cases sp <;> rfl
@[simp] theorem State.memWrite_bufSize (s : State) (sp : Space) (a : Nat) (v : List Byte) (sp2 : Space) : (s.memWrite sp a v).bufSize sp2 = s.bufSize sp2 := by cases sp <;> cases sp2 <;> rfl

@[simp] theorem State.setBuf_buf_same (s : State) (sp : Space) (m : Memory) : (s.setBuf sp m).buf sp = m := by cases sp <;> rfl
theorem State.setBuf_buf_other (s : State) {sp sp2 : Space} (m : Memory) (h : sp2 ≠ sp) : (s.setBuf sp m).buf sp2 = s.buf sp2 := by
  cases sp <;> cases sp2 <;> first | rfl | exact absurd rfl h
@[simp] theorem State.memWrite_buf_same (s : State) (sp : Space) (a : Nat) (v : List Byte) :
    (s.memWrite sp a v).buf sp = (s.buf sp).writeBytes a v := by simp [State.memWrite]
theorem State.memWrite_buf_other (s : State) {sp sp2 : Space} (a : Nat) (v : List Byte) (h : sp2 ≠ sp) :
    (s.memWrite sp a v).buf sp2 = s.buf sp2 := State.setBuf_buf_other s _ h
@[simp] theorem State.memWrite_obuf_abuf (s : State) (a : Nat) (v : List Byte) : (s.memWrite .obuf a v).abuf = s.abuf := rfl
@[simp] theorem State.memWrite_obuf_ibuf (s : State) (a : Nat) (v : List Byte) : (s.memWrite .obuf a v).ibuf = s.ibuf := rfl
@[simp] theorem State.memWrite_obuf_obuf (s : State) (a : Nat) (v : List Byte) : (s.memWrite .obuf a v).obuf = Memory.writeBytes s.obuf a v := rfl
@[simp] theorem State.memWrite_obuf_aad (s : State) (a : Nat) (v : List Byte) : (s.memWrite .obuf a v).aad = s.aad := rfl
@[simp] theorem State.memWrite_obuf_text (s : State) (a : Nat) (v : List Byte) : (s.memWrite .obuf a v).text = s.text := rfl

/-! ### The steps of a call -/

/-- Folding through `Y` writes `Y` alone (spec 44_ghash.md R171). -/
theorem State.foldGhash_eq (s : State) (d : List Byte) : s.foldGhash d = s.setY (ghash d s.h) := rfl

/-- A counter-mode pass writes `CTR` and the start of `OBUF` (spec 45_counter_mode.md R182). -/
theorem State.ctrPass_eq (s : State) (d : List Byte) :
    s.ctrPass d = (s.setCtr (ctrRun s.rk s.iv d).ctr).memWrite .obuf 0 (ctrXor s.rk s.iv d) := rfl

/-- A call begins by writing `RK` and `H` (spec 46_gcm.md R195). -/
theorem State.beginCall_eq (s : State) :
    s.beginCall = (s.setRk (keyExpand s.key)).setH (hashSubkey (keyExpand s.key)) := rfl

/-- Authenticating writes `Y` and `EJ0` (spec 46_gcm.md R195). -/
theorem State.authenticate_eq (s : State) (c : List Byte) :
    s.authenticate c =
      (s.setY (ghash (authInput s.aad c) s.h)).setEj0 (blockTransform s.rk (j0 s.iv)) := rfl

end Sys2Proof.Machine
end

