-- ==== Sys2Proof/Laws/Memory.lean ====
section
/-! SUPPORT. One buffer: a read after a write, the canonical form, and that equal memories are equal
lists. -/

namespace Sys2Proof.Machine

/-! ### Reading after writing -/

@[simp] theorem Memory.lookup_write_same (m : Memory) (a : Nat) (b : Byte) :
    (m.write a b).lookup a = some b := by
  induction m with
  | nil => simp [Memory.write, Memory.lookup]
  | cons c m ih =>
    simp only [Memory.write]
    split
    · simp [Memory.lookup]
    · split
      · simp [Memory.lookup]
      · rename_i h; simp [Memory.lookup, Ne.symm h, ih]

theorem Memory.lookup_write_other (m : Memory) {a x : Nat} (b : Byte) (hx : x ≠ a) :
    (m.write a b).lookup x = m.lookup x := by
  induction m with
  | nil => simp [Memory.write, Memory.lookup, Ne.symm hx]
  | cons c m ih =>
    simp only [Memory.write]
    split
    · simp [Memory.lookup, Ne.symm hx]
    · split
      · rename_i h; simp [Memory.lookup, Ne.symm hx, ← h]
      · simp [Memory.lookup, ih]

/-- What every address holds after consecutive bytes are written at `a`. -/
theorem Memory.lookup_writeBytes (m : Memory) (a : Nat) (v : List Byte) (x : Nat) :
    (m.writeBytes a v).lookup x = if a ≤ x then v[x - a]?.or (m.lookup x) else m.lookup x := by
  induction v generalizing m a with
  | nil => simp [Memory.writeBytes]
  | cons b v ih =>
    rw [Memory.writeBytes, ih]
    rcases Nat.lt_trichotomy x a with h | h | h
    · rw [if_neg (by omega), if_neg (by omega), Memory.lookup_write_other _ _ (by omega)]
    · subst h; simp
    · rw [if_pos (by omega), if_pos (by omega), Memory.lookup_write_other _ _ (by omega)]
      have : x - a = (x - (a + 1)) + 1 := by omega
      rw [this, List.getElem?_cons_succ]

/-! ### The canonical form -/

theorem Memory.mem_write {m : Memory} {a : Nat} {b : Byte} {c : Host.Cell} (h : c ∈ m.write a b) :
    c = (a, b) ∨ c ∈ m := by
  induction m with
  | nil => simpa [Memory.write] using h
  | cons d m ih =>
    simp only [Memory.write] at h
    split at h
    · simpa using h
    · split at h
      · simp at h; tauto
      · rcases List.mem_cons.1 h with h | h
        · exact .inr (List.mem_cons.2 (.inl h))
        · exact (ih h).imp id (List.mem_cons_of_mem _)

/-- A write keeps the addresses strictly rising. -/
theorem Memory.wf_write {m : Memory} (h : m.wf) (a : Nat) (b : Byte) : (m.write a b).wf := by
  induction m with
  | nil => simp [Memory.write, Memory.wf]
  | cons c m ih =>
    obtain ⟨hc, hm⟩ := List.pairwise_cons.1 h
    simp only [Memory.write]
    split
    · rename_i hlt
      refine List.pairwise_cons.2 ⟨fun d hd => ?_, h⟩
      rcases List.mem_cons.1 hd with rfl | hd
      · exact hlt
      · exact Nat.lt_trans hlt (hc d hd)
    · split
      · rename_i heq; subst heq; exact List.pairwise_cons.2 ⟨hc, hm⟩
      · refine List.pairwise_cons.2 ⟨fun d hd => ?_, ih hm⟩
        rcases Memory.mem_write hd with rfl | hd
        · simp only; omega
        · exact hc d hd

theorem Memory.wf_writeBytes {m : Memory} (h : m.wf) (a : Nat) (v : List Byte) :
    (m.writeBytes a v).wf := by
  induction v generalizing m a with
  | nil => exact h
  | cons b v ih => exact ih (Memory.wf_write h a b) _

theorem Memory.inside_write {m : Memory} {n a : Nat} (h : m.inside n) (ha : a < n) (b : Byte) :
    (m.write a b).inside n := fun _ hc =>
  (Memory.mem_write hc).elim (fun e => e ▸ ha) (h _)

/-- Bytes written inside a buffer stay inside it. -/
theorem Memory.inside_writeBytes {m : Memory} {n a : Nat} (h : m.inside n) (v : List Byte)
    (ha : a + v.length ≤ n) : (m.writeBytes a v).inside n := by
  induction v generalizing m a with
  | nil => exact h
  | cons b v ih =>
    simp only [List.length_cons] at ha
    exact ih (Memory.inside_write h (by omega) b) (by omega)

theorem Memory.lookup_eq_none_of_lt {m : Memory} {a : Nat} (h : ∀ c ∈ m, a < c.1) :
    m.lookup a = none := by
  induction m with
  | nil => rfl
  | cons c m ih =>
    have := h c (by simp)
    rw [Memory.lookup, if_neg (by omega)]
    exact ih fun d hd => h d (List.mem_cons_of_mem _ hd)

/-- The form is canonical: two memories that hold the same written value at every address are the same
list. -/
theorem Memory.eq_of_lookup_eq {m n : Memory} (hm : m.wf) (hn : n.wf)
    (h : ∀ a, m.lookup a = n.lookup a) : m = n := by
  induction m generalizing n with
  | nil =>
    cases n with
    | nil => rfl
    | cons d n => simpa [Memory.lookup] using h d.1
  | cons c m ih =>
    cases n with
    | nil => simpa [Memory.lookup] using h c.1
    | cons d n =>
      obtain ⟨hc, hm⟩ := List.pairwise_cons.1 hm
      obtain ⟨hd, hn⟩ := List.pairwise_cons.1 hn
      have hcd : c.1 = d.1 := by
        rcases Nat.lt_trichotomy c.1 d.1 with hlt | heq | hlt
        · have := h c.1
          rw [Memory.lookup_eq_none_of_lt (m := d :: n) (by
            intro e he
            rcases List.mem_cons.1 he with rfl | he
            · exact hlt
            · exact Nat.lt_trans hlt (hd e he))] at this
          simp [Memory.lookup] at this
        · exact heq
        · have := h d.1
          rw [Memory.lookup_eq_none_of_lt (m := c :: m) (by
            intro e he
            rcases List.mem_cons.1 he with rfl | he
            · exact hlt
            · exact Nat.lt_trans hlt (hc e he))] at this
          simp [Memory.lookup] at this
      have hcd2 : c.2 = d.2 := by simpa [Memory.lookup, hcd] using h c.1
      have htail : m = n := by
        refine ih hm hn fun a => ?_
        have ha := h a
        simp only [Memory.lookup, hcd] at ha
        by_cases e : d.1 = a
        · rw [Memory.lookup_eq_none_of_lt (m := m) (by rw [← e, ← hcd]; exact hc),
            Memory.lookup_eq_none_of_lt (m := n) (by rw [← e]; exact hd)]
        · simpa [e] using ha
      rw [htail, Prod.ext hcd hcd2]

/-! ### The buffers of the state -/

/-- What every byte of every buffer holds after `MemWrite`. -/
theorem State.bufByte_memWrite (s : State) (sp : Space) (a : Nat) (v : List Byte) (sp2 : Space)
    (x : Nat) :
    (s.memWrite sp a v).bufByte sp2 x =
      if sp2 = sp ∧ a ≤ x then (v[x - a]?).getD (s.bufByte sp2 x) else s.bufByte sp2 x := by
  by_cases hsp : sp2 = sp
  · subst hsp
    simp only [State.bufByte, State.memWrite_buf_same, State.memWrite_resets,
      Memory.lookup_writeBytes, true_and]
    by_cases ha : a ≤ x
    · simp only [if_pos ha]; cases v[x - a]? <;> simp
    · simp only [if_neg ha]
  · simp only [State.bufByte, State.memWrite_buf_other s a v hsp, State.memWrite_resets, hsp,
      false_and, if_false]

@[simp] theorem State.length_memRead (s : State) (sp : Space) (a n : Nat) :
    (s.memRead sp a n).length = n := by simp [State.memRead]

@[simp] theorem State.length_text (s : State) : s.text.length = s.dlen.toNat := by simp [State.text]

@[simp] theorem State.length_aad (s : State) : s.aad.length = s.alen.toNat := by simp [State.aad]

/-- Byte `k` of what is read is the buffer's byte at `a + k`. -/
theorem State.getElem?_memRead (s : State) (sp : Space) (a n k : Nat) :
    (s.memRead sp a n)[k]? = if k < n then some (s.bufByte sp (a + k)) else none := by
  unfold State.memRead
  split <;> simp_all

end Sys2Proof.Machine
end

