-- ==== Sys2Proof/Laws/Operands.lean ====
section
/-! SUPPORT. What each test of a command says about the registers, and the messages byte by byte. -/

namespace Sys2Proof.Machine

theorem State.textTooLong_iff {s : State} :
    s.textTooLong = true ↔ s.dlen.toNat > s.dbufSize ∨ s.dlen.toNat ≥ 2 ^ 61 :=
  (Bool.or_eq_true _ _).to_iff.trans (or_congr decide_eq_true_iff decide_eq_true_iff)

theorem State.aadTooLong_iff {s : State} :
    s.aadTooLong = true ↔ s.alen.toNat > s.abufSize ∨ s.alen.toNat ≥ 2 ^ 61 :=
  (Bool.or_eq_true _ _).to_iff.trans (or_congr decide_eq_true_iff decide_eq_true_iff)

theorem State.textRagged_iff {s : State} : s.textRagged = true ↔ s.dlen.toNat % 16 ≠ 0 :=
  decide_eq_true_iff

theorem State.counterExhausted_iff {s : State} :
    s.counterExhausted = true ↔ (s.dlen.toNat + 15) / 16 > 2 ^ 32 - 2 :=
  decide_eq_true_iff

theorem State.textTooLong_eq_false {s : State} :
    s.textTooLong = false ↔ s.dlen.toNat ≤ s.dbufSize ∧ s.dlen.toNat < 2 ^ 61 := by
  rw [← Bool.not_eq_true, State.textTooLong_iff]; omega

theorem State.aadTooLong_eq_false {s : State} :
    s.aadTooLong = false ↔ s.alen.toNat ≤ s.abufSize ∧ s.alen.toNat < 2 ^ 61 := by
  rw [← Bool.not_eq_true, State.aadTooLong_iff]; omega

theorem State.textRagged_eq_false {s : State} : s.textRagged = false ↔ s.dlen.toNat % 16 = 0 := by
  rw [← Bool.not_eq_true, State.textRagged_iff]; omega

theorem State.counterExhausted_eq_false {s : State} :
    s.counterExhausted = false ↔ (s.dlen.toNat + 15) / 16 ≤ 2 ^ 32 - 2 := by
  rw [← Bool.not_eq_true, State.counterExhausted_iff]; omega

@[simp] theorem State.lacksKey_eq (s : State) : s.lacksKey = !s.keyv := rfl

@[simp] theorem State.lacksSchedule_eq (s : State) : s.lacksSchedule = !s.rkv := rfl

@[simp] theorem State.lacksScheduleOrIv_eq (s : State) :
    s.lacksScheduleOrIv = (!s.rkv || !s.ivv) := rfl

@[simp] theorem State.lacksKeyOrIv_eq (s : State) : s.lacksKeyOrIv = (!s.keyv || !s.ivv) := rfl

/-- Byte `k` of the input text is the byte at address `k` of `IBUF`. -/
theorem State.getD_text (s : State) {k : Nat} (h : k < s.dlen.toNat) :
    s.text.getD k 0 = s.bufByte .ibuf k := by
  rw [State.text, List.getD_eq_getElem?_getD, State.getElem?_memRead, if_pos h, Nat.zero_add]
  rfl

/-- Byte `k` of the associated data is the byte at address `k` of `ABUF`. -/
theorem State.getD_aad (s : State) {k : Nat} (h : k < s.alen.toNat) :
    s.aad.getD k 0 = s.bufByte .abuf k := by
  rw [State.aad, List.getD_eq_getElem?_getD, State.getElem?_memRead, if_pos h, Nat.zero_add]
  rfl

/-- Two reads of the same bytes are the same message. -/
theorem State.memRead_congr {s t : State} {sp : Space} {n : Nat}
    (h : ∀ a < n, t.bufByte sp a = s.bufByte sp a) : t.memRead sp 0 n = s.memRead sp 0 n := by
  refine List.map_congr_left fun k hk => ?_
  rw [Nat.zero_add]
  exact h k (List.mem_range.1 hk)

/-- The bytes of `OBUF` after an output is written at its start. -/
theorem State.bufByte_output (s : State) (v : List Byte) (k : Nat) :
    (s.memWrite .obuf 0 v).bufByte .obuf k = if k < v.length then v.getD k 0 else s.bufByte .obuf k := by
  rw [State.bufByte_memWrite, if_pos ⟨rfl, Nat.zero_le k⟩, Nat.sub_zero]
  split
  · rename_i h; rw [List.getElem?_eq_getElem h, List.getD_eq_getElem _ _ h]; rfl
  · rename_i h; rw [List.getElem?_eq_none (by omega)]; rfl

end Sys2Proof.Machine
end

