-- ==== Sys2Proof/Laws/Operations.lean ====
section
/-! SUPPORT. What each shared operation can do, said once: running a command, taking an event, and the
iterations of the units' loops. -/

namespace Sys2Proof.Machine

/-! ### Running a command -/

@[simp] theorem firstFailure_nil : firstFailure [] = none := rfl

@[simp] theorem firstFailure_cons (b : Bool) (e : ErrCode) (l : List (Bool × ErrCode)) :
    firstFailure ((b, e) :: l) = if b then some e else firstFailure l := rfl

/-- A command refuses with its first failing test, or runs (spec 60_exceptions.md R212, R217). -/
theorem runCommand_cases {tests : List (Bool × ErrCode)} {body : State → State} {s t : State}
    (h : runCommand tests body s = .next t) :
    (∃ e, firstFailure tests = some e ∧ t = s.report e) ∨
      (firstFailure tests = none ∧ t = body s) := by
  unfold runCommand at h
  split at h
  · rename_i e he
    injection h with h
    exact .inl ⟨e, he, h ▸ rfl⟩
  · rename_i he
    injection h with h
    exact .inr ⟨he, h ▸ rfl⟩

/-- A command whose tests all pass runs. -/
theorem runCommand_run {tests : List (Bool × ErrCode)} (body : State → State) (s : State)
    (h : firstFailure tests = none) : runCommand tests body s = .next (body s) := by
  simp [runCommand, h]

/-- A command whose first failing test is `e` is refused with `e`. -/
theorem runCommand_refuse {tests : List (Bool × ErrCode)} (body : State → State) (s : State)
    {e : ErrCode} (h : firstFailure tests = some e) :
    runCommand tests body s = .next (s.report e) := by
  simp [runCommand, h]

/-- Every command ends (spec 70_reset_and_hazards.md R235). -/
theorem runCommand_ends (tests : List (Bool × ErrCode)) (body : State → State) (s : State) :
    ∃ t, runCommand tests body s = .next t := by
  unfold runCommand
  split <;> exact ⟨_, rfl⟩

/-- The tests of each command, in their order (spec 60_exceptions.md R213 to R215, R217). -/
def commandTests (s : State) : Instr → List (Bool × ErrCode)
  | .keyexp => [(s.lacksKey, .precond)]
  | .aesenc => [(s.lacksSchedule, .precond)]
  | .gfmul | .clr => []
  | .ghash => [(s.textTooLong || s.textRagged, .length)]
  | .ctrxor =>
    [(s.lacksScheduleOrIv, .precond), (s.textTooLong, .length), (s.counterExhausted, .ctr)]
  | .gcmenc | .gcmdec => s.gcmTests
  | .rkrd n => [(decide (10 < n.toNat), .illegal), (s.lacksSchedule, .precond)]

/-- The run of each command. -/
def commandBody : Instr → State → State
  | .keyexp, s => ((s.setRk (keyExpand s.key)).setRkv true).complete
  | .aesenc, s => (s.setRes (blockTransform s.rk s.opa)).complete
  | .gfmul, s => (s.setRes (gfMul s.opa s.opb)).complete
  | .ghash, s => ghashBody s
  | .ctrxor, s => ctrxorBody s
  | .gcmenc, s => gcmencBody s
  | .gcmdec, s => gcmdecBody s
  | .clr, s => s.releaseWorking.clearRegisters
  | .rkrd n, s => (s.setRes (roundKey s.rk n.toNat)).complete

/-- Every command is its tests and then its run (spec 40_host_transactions.md R105). -/
theorem exec_eq (i : Instr) (s : State) :
    exec i s = runCommand (commandTests s i) (commandBody i) s := by
  cases i <;> rfl

/-- A command refuses with its first failing test, or runs. -/
theorem exec_cases {i : Instr} {s t : State} (h : exec i s = .next t) :
    (∃ e, firstFailure (commandTests s i) = some e ∧ t = s.report e) ∨
      (firstFailure (commandTests s i) = none ∧ t = commandBody i s) :=
  runCommand_cases (exec_eq i s ▸ h)

/-! ### Register writes, register by register -/

/-- A register write to a number that names a register is a write of that register. -/
theorem transact_regWrite {r : Byte} {g : Reg} (h : Reg.ofNumber r = some g)
    (v : BitVec (regWidth r)) (s : State) :
    transact (.regWrite r v) s = writeReg g (v.cast (regWidth_of_ofNumber h)) s := by
  simp only [transact]
  split
  · rename_i g' h'
    have : g' = g := by rw [h] at h'; exact (Option.some.inj h').symm
    subst this; rfl
  · rename_i h'; rw [h] at h'; cases h'

/-- A register write to a number that names no register is malformed. -/
theorem transact_regWrite_none {r : Byte} (h : Reg.ofNumber r = none) (v : BitVec (regWidth r))
    (s : State) : transact (.regWrite r v) s = busError s := by
  simp only [transact]
  split
  · rename_i g' h'; rw [h] at h'; cases h'
  · rfl

@[simp] theorem transact_wrCmd (op : Byte) (s : State) : transact (wrCmd op) s = writeCmd op s := rfl

@[simp] theorem transact_wrKey (v : Block) (s : State) :
    transact (wrKey v) s = .next ((s.loadKey v).respond .ok) := rfl

@[simp] theorem transact_wrIv (v : IvWord) (s : State) :
    transact (wrIv v) s = .next ((s.loadIv v).respond .ok) := rfl

@[simp] theorem transact_wrAlen (v : Length) (s : State) :
    transact (wrAlen v) s = .next ((s.setAlen v).respond .ok) := rfl

@[simp] theorem transact_wrDlen (v : Length) (s : State) :
    transact (wrDlen v) s = .next ((s.setDlen v).respond .ok) := rfl

@[simp] theorem transact_wrTag (v : Block) (s : State) :
    transact (wrTag v) s = .next ((s.setTag v).respond .ok) := rfl

@[simp] theorem transact_wrOpa (v : Block) (s : State) :
    transact (wrOpa v) s = .next ((s.setOpa v).respond .ok) := rfl

@[simp] theorem transact_wrOpb (v : Block) (s : State) :
    transact (wrOpb v) s = .next ((s.setOpb v).respond .ok) := rfl

/-- The shapes a transaction can have: a write of one of the eight writable registers, a write that
names none of them and is a bus error, a read, or a buffer access (spec 30_encoding.md R85, R86). -/
theorem transaction_cases (x : Transaction) :
    (∃ b, x = wrCmd b) ∨ (∃ v, x = wrKey v) ∨ (∃ v, x = wrIv v) ∨ (∃ v, x = wrAlen v) ∨
      (∃ v, x = wrDlen v) ∨ (∃ v, x = wrTag v) ∨ (∃ v, x = wrOpa v) ∨ (∃ v, x = wrOpb v) ∨
      (∃ r v, x = .regWrite r v ∧ (r = 0x01#8 ∨ r = 0x02#8 ∨ 0x0A ≤ r.toNat) ∧
        ∀ s, transact x s = busError s) ∨
      (∃ r, x = .regRead r) ∨ (∃ n a b, x = .bufWrite n a b) ∨ (∃ n a, x = .bufRead n a) := by
  cases x with
  | regRead r => simp
  | bufWrite n a b => simp
  | bufRead n a => simp
  | regWrite r v =>
    have hr : r = 0#8 ∨ r = 1#8 ∨ r = 2#8 ∨ r = 3#8 ∨ r = 4#8 ∨ r = 5#8 ∨ r = 6#8 ∨ r = 7#8 ∨
        r = 8#8 ∨ r = 9#8 ∨ r = 10#8 ∨ (11 ≤ r.toNat ∧ Reg.ofNumber r = none) := by
      clear v; revert r; decide
    rcases hr with rfl | rfl | rfl | rfl | rfl | rfl | rfl | rfl | rfl | rfl | rfl | ⟨hr, hn⟩
    · exact .inl ⟨v, rfl⟩
    · exact .inr <| .inr <| .inr <| .inr <| .inr <| .inr <| .inr <| .inr <| .inl
        ⟨_, v, rfl, .inl rfl, fun _ => rfl⟩
    · exact .inr <| .inr <| .inr <| .inr <| .inr <| .inr <| .inr <| .inr <| .inl
        ⟨_, v, rfl, .inr (.inl rfl), fun _ => rfl⟩
    · exact .inr <| .inl ⟨v, rfl⟩
    · exact .inr <| .inr <| .inl ⟨v, rfl⟩
    · exact .inr <| .inr <| .inr <| .inl ⟨v, rfl⟩
    · exact .inr <| .inr <| .inr <| .inr <| .inl ⟨v, rfl⟩
    · exact .inr <| .inr <| .inr <| .inr <| .inr <| .inl ⟨v, rfl⟩
    · exact .inr <| .inr <| .inr <| .inr <| .inr <| .inr <| .inl ⟨v, rfl⟩
    · exact .inr <| .inr <| .inr <| .inr <| .inr <| .inr <| .inr <| .inl ⟨v, rfl⟩
    · exact .inr <| .inr <| .inr <| .inr <| .inr <| .inr <| .inr <| .inr <| .inl
        ⟨_, v, rfl, .inr (.inr (by decide)), fun _ => rfl⟩
    · exact .inr <| .inr <| .inr <| .inr <| .inr <| .inr <| .inr <| .inr <| .inl
        ⟨_, v, rfl, .inr (.inr (by omega)), fun s => transact_regWrite_none hn v s⟩

/-! ### Taking an event -/

theorem step_idle {s : State} (h : s.inbox = []) : step s = .next s := by
  simp [step, takeEvent, h]

theorem step_transaction {s : State} {t : Transaction} {rest : List HostEvent}
    (h : s.inbox = .transaction t :: rest) : step s = transact t (s.setInbox rest) := by
  simp [step, takeEvent, h]

theorem step_reset {s : State} {rest : List HostEvent} (h : s.inbox = .reset :: rest) :
    step s = .next (s.setInbox rest).afterReset := by
  simp [step, takeEvent, h]

theorem State.holds_iff {s : State} {sp : Space} {a : Length} :
    s.holds sp a = true ↔ a.toNat < s.bufSize sp := decide_eq_true_iff

/-- The buffer a well-formed access reaches (spec 40_host_transactions.md R104). -/
theorem target_eq_some {s : State} {n : Byte} {a : Length} {sp : Space} :
    s.target n a = some sp ↔ Space.ofNumber n = some sp ∧ a.toNat < s.bufSize sp := by
  unfold State.target
  cases h : Space.ofNumber n with
  | none => simp
  | some sp' =>
    simp only [Option.some.injEq]
    constructor
    · intro h2
      split at h2
      · rename_i h3; injection h2 with h2; subst h2; exact ⟨rfl, State.holds_iff.1 h3⟩
      · cases h2
    · rintro ⟨rfl, h2⟩; rw [if_pos (State.holds_iff.2 h2)]

@[simp] theorem ofNumber_abuf : Space.ofNumber 0#8 = some .abuf := rfl

@[simp] theorem ofNumber_ibuf : Space.ofNumber 1#8 = some .ibuf := rfl

@[simp] theorem ofNumber_obuf : Space.ofNumber 2#8 = some .obuf := rfl

@[simp] theorem State.bufSize_abuf (s : State) : s.bufSize .abuf = s.abufSize := rfl

@[simp] theorem State.bufSize_ibuf (s : State) : s.bufSize .ibuf = s.dbufSize := rfl

@[simp] theorem State.bufSize_obuf (s : State) : s.bufSize .obuf = s.dbufSize := rfl

/-- When a buffer access is malformed: no such buffer, or an address at or above its size (spec
40_host_transactions.md R104). -/
theorem target_eq_none {s : State} {n : Byte} {a : Length} :
    s.target n a = none ↔ n.toNat > 2 ∨ (n = 0#8 ∧ a.toNat ≥ s.abufSize) ∨
      ((n = 1#8 ∨ n = 2#8) ∧ a.toNat ≥ s.dbufSize) := by
  have hn : Space.ofNumber n = none ∧ n.toNat > 2 ∨ n = 0#8 ∨ n = 1#8 ∨ n = 2#8 := by
    revert n; decide
  rcases hn with ⟨hn, h2⟩ | rfl | rfl | rfl
  · simp [State.target, hn, h2]
  all_goals
    simp only [State.target, ofNumber_abuf, ofNumber_ibuf, ofNumber_obuf]
    split
    all_goals
      rename_i h
      rw [State.holds_iff] at h
      simp only [State.bufSize_abuf, State.bufSize_ibuf, State.bufSize_obuf] at h
      simp
      omega

/-! ### The loops of the units -/

@[simp] theorem gfLoop_zero (x y : Block) : gfLoop x y 0 = { z := 0, v := y } := rfl

theorem gfLoop_succ (x y : Block) (n : Nat) : gfLoop x y (n + 1) = gfStep x n (gfLoop x y n) := rfl

@[simp] theorem fullRounds_zero (rk : Schedule) (s : Block) : fullRounds rk 0 s = s := rfl

theorem fullRounds_succ (rk : Schedule) (n : Nat) (s : Block) :
    fullRounds rk (n + 1) s =
      addRoundKey (mixColumns (shiftRows (subBytes (fullRounds rk n s)))) (roundKey rk (n + 1)) := rfl

@[simp] theorem scheduleWords_zero (k : Block) :
    scheduleWords k 0 =
      [k.extractLsb' 0 32, k.extractLsb' 32 32, k.extractLsb' 64 32, k.extractLsb' 96 32] := rfl

theorem scheduleWords_succ (k : Block) (n : Nat) :
    scheduleWords k (n + 1) = scheduleStep (n + 4) (scheduleWords k n) := rfl

@[simp] theorem length_scheduleWords (k : Block) (n : Nat) :
    (scheduleWords k n).length = n + 4 := by
  induction n with
  | zero => rfl
  | succ n ih => simp [scheduleWords_succ, scheduleStep, ih]

end Sys2Proof.Machine
end

