-- ==== Sys2Proof/Laws/Commands.lean ====
section
/-! SUPPORT. What the run of each longer command does, said once as a chain of named updates over the
pure functions of the units, so that no later proof unfolds the runs. -/

namespace Sys2Proof.Machine

/-- The run of `GHASH` (spec 44_ghash.md R172). -/
theorem ghashBody_eq (s : State) :
    ghashBody s =
      ((((s.setH s.opb).setY (ghash s.text s.opb)).setRes
        (ghash s.text s.opb)).releaseWorking).report .ok := rfl

/-- The run of `CTRXOR` (spec 45_counter_mode.md R185). -/
theorem ctrxorBody_eq (s : State) :
    ctrxorBody s =
      (((s.setCtr (ctrRun s.rk s.iv s.text).ctr).memWrite .obuf 0
        (ctrXor s.rk s.iv s.text)).releaseWorking).report .ok := rfl

/-- The state in which `GCMENC` and `GCMDEC` have expanded the key and derived the subkey. -/
def State.withSchedule (s : State) : State :=
  (s.setRk (keyExpand s.key)).setH (hashSubkey (keyExpand s.key))

/-- The state in which the tag of a ciphertext has been computed, `EJ0` and `Y` apart (spec 46_gcm.md
R195, R196). -/
def State.withTagOf (s : State) (rk : Schedule) (c : List Byte) : State :=
  (s.setY (ghash (authInput s.aad c) (hashSubkey rk))).setEj0 (blockTransform rk (j0 s.iv))

/-- The run of `GCMENC` (spec 46_gcm.md R195). -/
theorem gcmencBody_eq (s : State) :
    gcmencBody s =
      (((((s.withSchedule.setCtr (ctrRun (keyExpand s.key) s.iv s.text).ctr).memWrite .obuf 0
          (ctrXor (keyExpand s.key) s.iv s.text)).withTagOf (keyExpand s.key)
          (ctrXor (keyExpand s.key) s.iv s.text)).setTag
        (gcmTag (keyExpand s.key) s.iv s.aad
          (ctrXor (keyExpand s.key) s.iv s.text))).zeroKeys.releaseWorking).report .ok := by
  simp only [gcmencBody, State.ctrPass, State.authenticate, State.beginCall, State.foldGhash,
    State.withSchedule, State.withTagOf, State.workingTag, gcmTag, State.discard_eq,
    State.complete_eq, State.setH_rk, State.setRk_rk, State.setH_iv, State.setRk_iv,
    State.setH_text, State.setRk_text, State.memWrite_h, State.setCtr_h, State.setH_h,
    State.memWrite_obuf_aad, State.setCtr_aad, State.setH_aad, State.setRk_aad, State.setY_rk,
    State.memWrite_rk, State.setCtr_rk, State.setY_iv, State.memWrite_iv, State.setCtr_iv,
    State.setEj0_ej0, State.setEj0_y, State.setY_y]

/-- The run of `GCMDEC` (spec 46_gcm.md R196). -/
theorem gcmdecBody_eq (s : State) :
    gcmdecBody s =
      if gcmTag (keyExpand s.key) s.iv s.aad s.text = s.tag then
        ((((s.withSchedule.withTagOf (keyExpand s.key) s.text).setCtr
            (ctrRun (keyExpand s.key) s.iv s.text).ctr).memWrite .obuf 0
            (ctrXor (keyExpand s.key) s.iv s.text)).zeroKeys.releaseWorking).report .ok
      else
        ((s.withSchedule.withTagOf (keyExpand s.key) s.text).zeroKeys.releaseWorking).report .auth := by
  simp only [gcmdecBody, State.ctrPass, State.authenticate, State.beginCall, State.foldGhash,
    State.withSchedule, State.withTagOf, State.workingTag, gcmTag, State.discard_eq,
    State.complete_eq, State.setH_rk, State.setRk_rk, State.setH_iv, State.setRk_iv,
    State.setH_text, State.setRk_text, State.setH_h, State.setH_aad, State.setRk_aad,
    State.setY_rk, State.setY_iv, State.setEj0_ej0, State.setEj0_y, State.setY_y,
    State.setEj0_tag, State.setY_tag, State.setH_tag, State.setRk_tag, State.setEj0_text,
    State.setY_text, State.setEj0_rk, State.setEj0_iv]
  rfl

/-- What a call leaves in the fields it does not name: the buffers that are read, the operands and the
other registers. -/
theorem gcmencBody_kept (s : State) :
    (gcmencBody s).alen = s.alen ∧ (gcmencBody s).dlen = s.dlen ∧ (gcmencBody s).opa = s.opa ∧
      (gcmencBody s).opb = s.opb ∧ (gcmencBody s).res = s.res ∧ (gcmencBody s).abuf = s.abuf ∧
      (gcmencBody s).ibuf = s.ibuf ∧ (gcmencBody s).resets = s.resets ∧
      (gcmencBody s).inbox = s.inbox ∧ (gcmencBody s).responses = s.responses := by
  rw [gcmencBody_eq]
  simp [State.withSchedule, State.withTagOf]

theorem gcmdecBody_kept (s : State) :
    (gcmdecBody s).alen = s.alen ∧ (gcmdecBody s).dlen = s.dlen ∧ (gcmdecBody s).opa = s.opa ∧
      (gcmdecBody s).opb = s.opb ∧ (gcmdecBody s).res = s.res ∧ (gcmdecBody s).abuf = s.abuf ∧
      (gcmdecBody s).ibuf = s.ibuf ∧ (gcmdecBody s).resets = s.resets ∧
      (gcmdecBody s).inbox = s.inbox ∧ (gcmdecBody s).responses = s.responses ∧
      (gcmdecBody s).tag = s.tag := by
  rw [gcmdecBody_eq]
  split <;> simp [State.withSchedule, State.withTagOf]

end Sys2Proof.Machine
end

