-- ==== Sys2Proof/Laws/Frames.lean ====
section
/-! SUPPORT. The frame relation field by field, and frames of the named updates, so that a frame is
shown without comparing two whole states. -/

namespace Sys2Proof.Machine

/-- `SameButWorking` is equality of every field but the working registers and their index. -/
theorem sameButWorking_iff {s t : State} :
    SameButWorking s t ↔
      t.key = s.key ∧ t.iv = s.iv ∧ t.alen = s.alen ∧ t.dlen = s.dlen ∧ t.tag = s.tag ∧
      t.opa = s.opa ∧ t.opb = s.opb ∧ t.res = s.res ∧ t.keyv = s.keyv ∧ t.ivv = s.ivv ∧
      t.rkv = s.rkv ∧ t.err = s.err ∧ t.rk = s.rk ∧ t.abuf = s.abuf ∧ t.ibuf = s.ibuf ∧
      t.obuf = s.obuf ∧ t.abufSize = s.abufSize ∧ t.dbufSize = s.dbufSize ∧
      t.resets = s.resets ∧ t.inbox = s.inbox ∧ t.responses = s.responses := by
  simp [SameButWorking, State.ext_iff]

theorem SameButWorking.refl (s : State) : SameButWorking s s := rfl

/-- Releasing the working registers changes nothing else. -/
theorem sameButWorking_release (s : State) : SameButWorking s s.releaseWorking := rfl

/-! ### The blocks of a counter-mode pass -/

@[simp] theorem ctrPrefix_zero (rk : Schedule) (iv : IvWord) (d : List Byte) :
    ctrPrefix rk iv d 0 = { ctr := 2#32, out := [] } := rfl

/-- One more block is one more `ctrStep` (spec 45_counter_mode.md R182). -/
theorem ctrPrefix_succ (rk : Schedule) (iv : IvWord) (d : List Byte) (n : Nat) :
    ctrPrefix rk iv d (n + 1) = ctrStep rk iv d (ctrPrefix rk iv d n) n := by
  simp [ctrPrefix, List.range_succ]

/-! ### What a refusal and a run report -/

theorem firstFailure_cons_eq_some {b : Bool} {e e' : ErrCode} {l : List (Bool × ErrCode)} :
    firstFailure ((b, e) :: l) = some e' ↔
      (b = true ∧ e = e') ∨ (b = false ∧ firstFailure l = some e') := by
  cases b <;> simp

/-- Why a command is refused (spec 60_exceptions.md R213 to R215, R217). -/
theorem refusal_cases {s : State} {i : Instr} {e : ErrCode}
    (h : firstFailure (commandTests s i) = some e) :
    (e = .illegal ∧ ¬ i.WellFormed) ∨ (e = .precond ∧ i.WellFormed ∧ s.Lacks i) ∨
      (e = .length ∧ ¬ s.Lacks i ∧ s.LengthBad i) ∨
      (e = .ctr ∧ ¬ s.Lacks i ∧ ¬ s.LengthBad i ∧ s.CounterBad i) := by
  have ht := State.textTooLong_iff (s := s)
  have ha := State.aadTooLong_iff (s := s)
  have hr := State.textRagged_iff (s := s)
  have hc := State.counterExhausted_iff (s := s)
  cases i <;>
    simp only [commandTests, State.gcmTests, firstFailure_cons_eq_some, firstFailure_nil,
      State.Lacks, State.LengthBad, State.CounterBad, State.TextBad, State.AadBad,
      Instr.WellFormed, Instr.roundIndexOk, Bool.or_eq_true, Bool.or_eq_false_iff,
      State.lacksKey_eq, State.lacksSchedule_eq, State.lacksScheduleOrIv_eq,
      State.lacksKeyOrIv_eq, ← ht, ← ha, ← hr, ← hc] at h ⊢
  all_goals grind

/-- A command that runs reports `OK`, or `GCMDEC` a wrong tag (spec 60_exceptions.md R216). -/
theorem commandBody_err (i : Instr) (s : State) :
    (commandBody i s).err = 0x00#8 ∨ (i = .gcmdec ∧ (commandBody i s).err = 0x05#8) := by
  cases i <;> first | exact .inl rfl | skip
  simp only [commandBody, gcmdecBody_eq]
  split
  · exact .inl rfl
  · exact .inr (by simp)

end Sys2Proof.Machine
end

