-- ==== Sys2Proof/Laws/PerInstr.lean ====
section
/-! SUPPORT. Facts stated for every command, one lemma per constructor. -/

namespace Sys2Proof.Laws

/-- A row of the opcode table: mask and match (spec 30_encoding.md R82). -/
def TableRow.maskMatch : Instr → Byte × Byte
  | .keyexp => (0xFF#8, 0x01#8)
  | .aesenc => (0xFF#8, 0x02#8)
  | .gfmul => (0xFF#8, 0x03#8)
  | .ghash => (0xFF#8, 0x04#8)
  | .ctrxor => (0xFF#8, 0x05#8)
  | .gcmenc => (0xFF#8, 0x06#8)
  | .gcmdec => (0xFF#8, 0x07#8)
  | .clr => (0xFF#8, 0x08#8)
  | .rkrd _ => (0xF0#8, 0x10#8)

/-- The encoding of a command matches its row: `(byte and mask) = match` (spec 30_encoding.md R82). -/
def TableRow.Statement (i : Instr) : Prop :=
  encode i &&& (TableRow.maskMatch i).1 = (TableRow.maskMatch i).2

theorem TableRow.keyexp : TableRow.Statement .keyexp := by unfold TableRow.Statement; decide

theorem TableRow.aesenc : TableRow.Statement .aesenc := by unfold TableRow.Statement; decide

theorem TableRow.gfmul : TableRow.Statement .gfmul := by unfold TableRow.Statement; decide

theorem TableRow.ghash : TableRow.Statement .ghash := by unfold TableRow.Statement; decide

theorem TableRow.ctrxor : TableRow.Statement .ctrxor := by unfold TableRow.Statement; decide

theorem TableRow.gcmenc : TableRow.Statement .gcmenc := by unfold TableRow.Statement; decide

theorem TableRow.gcmdec : TableRow.Statement .gcmdec := by unfold TableRow.Statement; decide

theorem TableRow.clr : TableRow.Statement .clr := by unfold TableRow.Statement; decide

theorem TableRow.rkrd (n : BitVec 4) : TableRow.Statement (.rkrd n) := by
  unfold TableRow.Statement; revert n; decide

end Sys2Proof.Laws
end

