-- ==== Sys2Proof/Tests/Slice0.lean ====
section
/-! SUPPORT. Tests. Expected values are those of spec 95_test_vectors.md, of the encodings of
30_encoding.md, or computed by hand from the rule named. Every run is one command or one step. The
second half shows, for each statement with hypotheses, a state and operands that meet them. -/

namespace Sys2Proof.Tests

open Sys2Proof.Machine

-- One test after another: each waiting test would otherwise hold a thread of its own.
set_option Elab.async false

/-! ### Small helpers -/

/-- One field of the next state. -/
def got {α : Type} (f : State → α) : Host.Outcome State Fault Refusal → Option α
  | .next t => some (f t)
  | .fault _ => none
  | .refused _ => none

/-- What `got` answers is what the next state holds. -/
theorem exists_of_got {α : Type} {f : State → α} {o : Host.Outcome State Fault Refusal} {x : α}
    (h : got f o = some x) : ∃ t, o = .next t ∧ f t = x := by
  cases o with
  | next t => exact ⟨t, rfl, Option.some.inj h⟩
  | fault _ => cases h
  | refused _ => cases h

/-- The `len` bytes of a big-endian number. -/
def bytesOf (len n : Nat) : List Byte :=
  (List.range len).map fun k => BitVec.ofNat 8 (n / 256 ^ (len - 1 - k))

/-- A buffer that holds these bytes from address 0 on. -/
def filled (v : List Byte) : Memory := Memory.writeBytes [] 0 v

/-- Reset, with buffers of 64 bytes. -/
def blank : State := State.resetWith 64 64

/-- A key and its schedule, and an IV. -/
def keyed : State :=
  { blank with
    key := 0x000102030405060708090a0b0c0d0e0f#128, keyv := true
    rk := keyExpand 0x000102030405060708090a0b0c0d0e0f#128, rkv := true
    iv := 0x101112131415161718191a1b#96, ivv := true }

/-- The operands of V-GCM7, its plaintext in `IBUF`. -/
def call7 : State :=
  { keyed with
    alen := 3#64, dlen := 17#64, abuf := filled (bytesOf 3 0xa0a1a2)
    ibuf := filled (bytesOf 17 0x303132333435363738393a3b3c3d3e3f40) }

/-- The operands of V-GCM7, its ciphertext in `IBUF` and its tag in `TAG`. -/
def reply7 : State :=
  { call7 with
    ibuf := filled (bytesOf 17 0xf41f319c3b7a80d82fe467cefb1ad5017a)
    tag := 0xdde46b6bb0938f737f5c4d36221bba5b#128 }

/-- A text of one block more than a counter pass takes, in a buffer that holds it (P5 part b). -/
def exhausted : State := { keyed with dbufSize := 2 ^ 62, dlen := 68719476705#64 }

/-! ### Well-formedness and decoding (R81 to R84) -/

theorem test_wellformed_refuses_round_11 : ¬ (Instr.rkrd 11#4).WellFormed := by decide

theorem test_wellformed_accepts_round_10 : (Instr.rkrd 10#4).WellFormed := by decide

theorem test_decode_keyexp : decode 0b00000001#8 = .ok .keyexp := by decide

theorem test_decode_aesenc : decode 0b00000010#8 = .ok .aesenc := by decide

theorem test_decode_gfmul : decode 0b00000011#8 = .ok .gfmul := by decide

theorem test_decode_ghash : decode 0b00000100#8 = .ok .ghash := by decide

theorem test_decode_ctrxor : decode 0b00000101#8 = .ok .ctrxor := by decide

theorem test_decode_gcmenc : decode 0b00000110#8 = .ok .gcmenc := by decide

theorem test_decode_gcmdec : decode 0b00000111#8 = .ok .gcmdec := by decide

theorem test_decode_clr : decode 0b00001000#8 = .ok .clr := by decide

theorem test_decode_rkrd_3 : decode 0b00010011#8 = .ok (.rkrd 3#4) := by decide

theorem test_decode_rkrd_11_illegal : decode 0b00011011#8 = .error (.illegal 0x1B#8) := by decide

theorem test_table_word_rkrd_10 : decodeTableWord 8 0x1A = some (.rkrd 10#4) := by decide

theorem test_table_word_illegal : decodeTableWord 8 0x09 = none := by decide

/-! ### The units (95_test_vectors.md section 3) -/

/-- V-KS1, round key 10. -/
theorem test_key_expand : roundKey (keyExpand 0x2b7e151628aed2a6abf7158809cf4f3c#128) 10 =
    0xd014f9a8c9ee2589e13f0cc8b6630ca6#128 := by decide +kernel

/-- V-BT2. -/
theorem test_block_transform :
    blockTransform (keyExpand 0x000102030405060708090a0b0c0d0e0f#128)
      0x00112233445566778899aabbccddeeff#128 = 0x69c4e0d86a7b0430d8cdb78070b4c55a#128 := by
  decide +kernel

/-- V-BT-c. -/
theorem test_mix_columns : mixColumns 0xdb135345f20a225c01010101c6c6c6c6#128 =
    0x8e4da1bc9fdc589d01010101c6c6c6c6#128 := by decide +kernel

/-- V-GF9: `x * x^127` is the reduction constant. -/
theorem test_gf_mul_reduces : gfMul (0x40#8 ++ 0#120) 1#128 = 0xe1#8 ++ 0#120 := by decide +kernel

/-- V-GH7: the order of the chunks matters. -/
theorem test_ghash_order :
    ghash (0x02#8 :: zeros 15 ++ 0x01#8 :: zeros 15) 0x66e94bd4ef8a2c3b884cfa59ca342b2e#128 =
      0x448874d7c70dd27c6cc48f80228d1a17#128 := by decide +kernel

/-- V-CT1: the wrap. -/
theorem test_inc32_wraps : inc32 0xFFFFFFFF#32 = 1#32 := by decide

/-- V-CT3 in detail: `CTR` after the two blocks of a pass. -/
theorem test_ctr_counts : (ctrRun (keyExpand 0#128) 0#96 (zeros 20)).ctr = 4#32 := by decide +kernel

/-- V-CT3: a second block of which 4 bytes are used. -/
theorem test_ctr_xor : ctrXor (keyExpand 0#128) 0#96 (zeros 20) =
    bytesOf 20 0x0388dace60b6a392f328c2b971b2fe78f795aaab := by decide +kernel

/-- V-AI5. -/
theorem test_auth_input :
    authInput (bytesOf 3 0xa0a1a2) (bytesOf 17 0xf41f319c3b7a80d82fe467cefb1ad5017a) =
      bytesOf 64 0xa0a1a200000000000000000000000000f41f319c3b7a80d82fe467cefb1ad5017a00000000000000000000000000000000000000000000180000000000000088 := by
  decide +kernel

/-! ### The commands -/

theorem test_keyexp_writes_schedule :
    got (fun t => (roundKey t.rk 10, t.rkv, t.err))
      (exec .keyexp { keyed with rk := Vector.replicate 11 0, rkv := false }) =
      some (0x13111d7fe3944a17f307a78b4d2b30c5#128, true, 0x00#8) := by decide +kernel

theorem test_keyexp_needs_key :
    got (fun t => (t.rkv, t.err)) (exec .keyexp blank) = some (false, 0x02#8) := by decide +kernel

theorem test_rkrd_reads_round_key :
    got (·.res) (exec (.rkrd 1#4) keyed) = some 0xd6aa74fdd2af72fadaa678f1d6ab76fe#128 := by
  decide +kernel

theorem test_rkrd_needs_schedule :
    got (fun t => (t.res, t.err)) (exec (.rkrd 0#4) blank) = some (0#128, 0x02#8) := by
  decide +kernel

theorem test_aesenc_encrypts :
    got (fun t => (t.res, t.opa)) (exec .aesenc
      { keyed with opa := 0x00112233445566778899aabbccddeeff#128 }) =
      some (0x69c4e0d86a7b0430d8cdb78070b4c55a#128, 0x00112233445566778899aabbccddeeff#128) := by
  decide +kernel

theorem test_aesenc_needs_schedule :
    got (fun t => (t.res, t.err)) (exec .aesenc { blank with res := 7#128 }) =
      some (7#128, 0x02#8) := by decide +kernel

/-- V-GF10. -/
theorem test_gfmul_multiplies :
    got (·.res) (exec .gfmul { blank with opa := 1#128, opb := 1#128 }) =
      some 0xe6080000000000000000000000000003#128 := by decide +kernel

/-- V-GH8. -/
theorem test_ghash_digests :
    got (fun t => (t.res, t.err)) (exec .ghash
      { blank with
        opb := 0x66e94bd4ef8a2c3b884cfa59ca342b2e#128, dlen := 32#64
        ibuf := filled (bytesOf 32
          0x0388dace60b6a392f328c2b971b2fe7800000000000000000000000000000080) }) =
      some (0xf38cbb1ad69223dcc3457ae5b6b0f885#128, 0x00#8) := by decide +kernel

theorem test_ghash_refuses_ragged_text :
    got (fun t => (t.res, t.err)) (exec .ghash { blank with res := 7#128, dlen := 17#64 }) =
      some (7#128, 0x03#8) := by decide +kernel

/-- V-CT4, and the byte after the text. -/
theorem test_ctrxor_writes_text :
    got (fun t => (t.memRead .obuf 0 14, t.err)) (exec .ctrxor
      { keyed with
        rk := keyExpand 0, iv := 0, dlen := 13#64, obuf := filled (bytesOf 14 0x5a)
        ibuf := filled (bytesOf 13 0x48656c6c6f2c20776f726c6421) }) =
      some (bytesOf 14 0x4bedb6a20f9a83e59c5aaedd505a, 0x00#8) := by decide +kernel

/-- V-CT6. -/
theorem test_ctrxor_refuses_exhaustion : got (·.err) (exec .ctrxor exhausted) = some 0x04#8 := by
  decide +kernel

/-- V-GCM7, and no key material is left. -/
theorem test_gcmenc_encrypts :
    got (fun t => (t.err, t.memRead .obuf 0 17, t.tag, t.key, t.status)) (exec .gcmenc call7) =
      some (0x00#8, bytesOf 17 0xf41f319c3b7a80d82fe467cefb1ad5017a,
        0xdde46b6bb0938f737f5c4d36221bba5b#128, 0, 0x00#8) := by decide +kernel

theorem call7_completes : ∃ t, exec .gcmenc call7 = .next t ∧ t.err = 0x00#8 := by
  obtain ⟨t, h, e⟩ := exists_of_got test_gcmenc_encrypts
  exact ⟨t, h, congrArg Prod.fst e⟩

/-- V-GCM7, back. -/
theorem test_gcmdec_decrypts :
    got (fun t => (t.err, t.memRead .obuf 0 17, t.status)) (exec .gcmdec reply7) =
      some (0x00#8, bytesOf 17 0x303132333435363738393a3b3c3d3e3f40, 0x00#8) := by decide +kernel

theorem reply7_completes : ∃ t, exec .gcmdec reply7 = .next t ∧ t.err = 0x00#8 := by
  obtain ⟨t, h, e⟩ := exists_of_got test_gcmdec_decrypts
  exact ⟨t, h, congrArg Prod.fst e⟩

/-- A forged tag: nothing is released and the keys are discarded all the same. -/
theorem test_gcmdec_rejects_forged_tag :
    got (fun t => (t.err, t.obuf, t.status)) (exec .gcmdec { reply7 with tag := 0 }) =
      some (0x05#8, [], 0x00#8) := by decide +kernel

theorem forged_fails : ∃ t, exec .gcmdec { reply7 with tag := 0 } = .next t ∧ t.err = 0x05#8 := by
  obtain ⟨t, h, e⟩ := exists_of_got test_gcmdec_rejects_forged_tag
  exact ⟨t, h, congrArg Prod.fst e⟩

theorem test_clr_clears :
    got (fun t => (t.key, t.tag, t.status, t.ibuf.length)) (exec .clr reply7) =
      some (0, 0, 0x00#8, 17) := by decide +kernel

/-! ### Steps -/

/-- `rd STATUS` (R107). -/
theorem test_step_reads_status :
    got (·.responses) (step { keyed with inbox := [.transaction (.regRead 0x01#8)] }) =
      some [.value 8 0x07#8] := by decide +kernel

/-- An illegal byte is reported and answered `Ok` (R105). -/
theorem test_step_illegal_byte :
    got (fun t => (t.err, t.responses)) (step (State.reset.withFetchWord 8 0x1B)) =
      some (0x01#8, [.ok]) := by decide +kernel

/-- The first command after reset runs (R230): `GFMUL` of zeros. -/
theorem test_step_runs_fetch_word :
    got (fun t => (t.err, t.res, t.inbox, t.responses)) (step (State.reset.withFetchWord 8 0x03)) =
      some (0x00#8, 0, [], [.ok]) := by decide +kernel

/-- `bw`, at the last address and one past it (R104). -/
theorem test_step_buffer_bounds :
    got (fun t => (t.ibuf, t.responses))
        (step { blank with inbox := [.transaction (.bufWrite 1#8 63#64 0x77#8)] }) =
      some ([(63, 0x77#8)], [.ok]) ∧
    got (fun t => (t.ibuf, t.responses))
        (step { blank with inbox := [.transaction (.bufWrite 1#8 64#64 0x77#8)] }) =
      some ([], [.busError]) := by decide +kernel

/-- `wr KEY` takes the schedule away (R101). -/
theorem test_step_key_write :
    got (fun t => (t.key, t.rk, t.status)) (step { keyed with inbox := [.transaction (wrKey 9#128)] }) =
      some (9#128, Vector.replicate 11 0, 0x03#8) := by decide +kernel

/-! ### The hypotheses of the statements can be met -/

theorem test_witness_DecodeAndEncodeAgree :
    (Instr.rkrd 10#4).WellFormed ∧ decode 0x1A#8 = .ok (.rkrd 10#4) := by decide

/-- The first and the last byte of each range. -/
theorem test_witness_IllegalByteOnlyReports :
    ∀ b ∈ [0x00#8, 0x09#8, 0x0F#8, 0x1B#8, 0x1F#8, 0x20#8, 0xFF#8],
      b = 0x00#8 ∨ (0x09#8 ≤ b ∧ b ≤ 0x0F#8) ∨ (0x1B#8 ≤ b ∧ b ≤ 0x1F#8) ∨ 0x20#8 ≤ b := by decide

theorem test_witness_StepRunsTheWrittenCommand :
    (State.reset.withFetchWord 8 0x1A).inbox = .transaction (wrCmd 0x1A#8) :: [] ∧
      decode 0x1A#8 = .ok (.rkrd 10#4) := by decide

theorem test_witness_IdleStepChangesNothing : State.reset.inbox = [] := by decide

theorem test_witness_EveryTransactionGetsOneResponse :
    { blank with inbox := [.transaction (.bufRead 3#8 0#64), .reset] }.inbox =
      .transaction (.bufRead 3#8 0#64) :: [.reset] := by decide

/-- A read-only register on each side of the writable ones, and the last number. -/
theorem test_witness_OperandWritesStore :
    ∀ r ∈ [0x01#8, 0x02#8, 0x0A#8, 0xFF#8], r = 0x01#8 ∨ r = 0x02#8 ∨ 0x0A#8 ≤ r := by decide

theorem test_witness_StatusShowsTheFlags : 3 ≤ 3 ∧ 3 ≤ 7 := by decide

theorem test_witness_ResetValues : 10 < 11 := by decide

theorem test_witness_RegisterReadsReturnValues : 0x0B#8 ≤ 0x0B#8 := by decide

/-- The last byte of `ABUF` lies inside, the next address outside, and number 3 names no buffer. -/
theorem test_witness_BufferAccessMovesOneByte :
    (Space.number .abuf = 0#8 ∧ (63#64).toNat < blank.bufSize .abuf) ∧
    (∀ sp, Space.number sp = 0#8 → blank.bufSize sp ≤ (64#64).toNat) ∧
    ∀ sp, Space.number sp = 3#8 → blank.bufSize sp ≤ (0#64).toNat := by
  refine ⟨by decide, fun sp => ?_, fun sp => ?_⟩ <;> cases sp <;> decide

theorem test_witness_BusErrorExactlyWhenMalformed :
    blank.Malformed (.regRead 0x0B#8) ∧ ¬ blank.Malformed (.regRead 0x0A#8) ∧
    blank.Malformed (.bufRead 2#8 64#64) ∧ ¬ blank.Malformed (.bufRead 2#8 63#64) := by
  simp only [State.Malformed]; decide

theorem test_witness_OnlyCommandsWriteErr :
    (∀ b, Transaction.regRead 0x02#8 ≠ wrCmd b) ∧
      ∃ t, transact (.regRead 0x02#8) blank = .next t :=
  ⟨fun _ h => (by cases h), _, rfl⟩

theorem test_witness_ResetEventClearsTheCore :
    { reply7 with inbox := [.reset] }.inbox = .reset :: [] := rfl

theorem test_witness_KeyexpExpandsTheKey : keyed.keyv = true ∧ blank.keyv = false := by decide

theorem test_witness_RkrdCopiesARoundKey :
    (10#4).toNat ≤ 10 ∧ keyed.rkv = true ∧ blank.rkv = false ∧
      0x1B#8 ≤ 0x1B#8 ∧ 0x1B#8 ≤ 0x1F#8 ∧ 0x1B#8 ≤ 0x1F#8 ∧ 0x1F#8 ≤ 0x1F#8 := by decide

theorem test_witness_AesencEncryptsOpa : keyed.rkv = true ∧ blank.rkv = false := by decide

/-- A text that fills the buffer; then one byte too many, `2^61` bytes, and 17 bytes. -/
theorem test_witness_GhashDigestsTheText :
    (let s : State := { blank with dlen := 64#64 }
     s.dlen.toNat ≤ s.dbufSize ∧ s.dlen.toNat < 2 ^ 61 ∧ s.dlen.toNat % 16 = 0) ∧
    { blank with dlen := 65#64 }.dlen.toNat > blank.dbufSize ∧
    { exhausted with dlen := 2305843009213693952#64 }.dlen.toNat ≥ 2 ^ 61 ∧
    { blank with dlen := 17#64 }.dlen.toNat % 16 ≠ 0 := by decide

theorem test_witness_CtrxorWritesKeystreamText :
    let s : State := { keyed with dlen := 64#64 }
    s.rkv = true ∧ s.ivv = true ∧ s.dlen.toNat ≤ s.dbufSize ∧ s.dlen.toNat < 2 ^ 61 ∧
      (s.dlen.toNat + 15) / 16 ≤ 2 ^ 32 - 2 := by decide

/-- Both messages as long as their buffers. -/
theorem test_witness_GcmencIsGcmEncrypt :
    let s : State := { keyed with alen := 64#64, dlen := 64#64 }
    s.keyv = true ∧ s.ivv = true ∧ s.alen.toNat ≤ s.abufSize ∧ s.alen.toNat < 2 ^ 61 ∧
      s.dlen.toNat ≤ s.dbufSize ∧ s.dlen.toNat < 2 ^ 61 ∧
      (s.dlen.toNat + 15) / 16 ≤ 2 ^ 32 - 2 := by decide

/-- With the right tag, and with another. -/
theorem test_witness_GcmdecIsGcmDecrypt :
    (reply7.keyv = true ∧ reply7.ivv = true ∧ reply7.alen.toNat ≤ reply7.abufSize ∧
      reply7.alen.toNat < 2 ^ 61 ∧ reply7.dlen.toNat ≤ reply7.dbufSize ∧
      reply7.dlen.toNat < 2 ^ 61 ∧ (reply7.dlen.toNat + 15) / 16 ≤ 2 ^ 32 - 2) ∧
    gcmDecrypt reply7.key reply7.iv (reply7.memRead .abuf 0 reply7.alen.toNat)
      (reply7.memRead .ibuf 0 reply7.dlen.toNat) reply7.tag =
        .plaintext (bytesOf 17 0x303132333435363738393a3b3c3d3e3f40) ∧
    gcmDecrypt reply7.key reply7.iv (reply7.memRead .abuf 0 reply7.alen.toNat)
      (reply7.memRead .ibuf 0 reply7.dlen.toNat) 0 = .authenticationFailure := by decide +kernel

/-- One state for each clause: no IV, too long a text, too many blocks, and none of the three. -/
theorem test_witness_RefusalsComeInFixedOrder :
    Instr.WellFormed .ctrxor ∧ { keyed with ivv := false }.Lacks .ctrxor ∧
    (¬ keyed.Lacks .ctrxor ∧ { keyed with dlen := 65#64 }.LengthBad .ctrxor) ∧
    (¬ exhausted.Lacks .ctrxor ∧ ¬ exhausted.LengthBad .ctrxor ∧ exhausted.CounterBad .ctrxor) ∧
    let s : State := { exhausted with dlen := 68719476704#64 }
    ¬ s.Lacks .ctrxor ∧ ¬ s.LengthBad .ctrxor ∧ ¬ s.CounterBad .ctrxor := by
  simp only [State.Lacks, State.LengthBad, State.TextBad, State.CounterBad]
  decide

/-- Each refusal that a command can end with. -/
theorem test_witness_RefusalChangesOnlyErr :
    (∃ t, exec (.rkrd 11#4) keyed = .next t ∧ t.err = 0x01#8) ∧
    (∃ t, exec .keyexp blank = .next t ∧ t.err = 0x02#8) ∧
    (∃ t, exec .ghash { blank with dlen := 17#64 } = .next t ∧ t.err = 0x03#8) ∧
    ∃ t, exec .ctrxor exhausted = .next t ∧ t.err = 0x04#8 :=
  ⟨exists_of_got (f := (·.err)) (by decide +kernel), exists_of_got (f := (·.err)) (by decide +kernel),
    exists_of_got (f := (·.err)) (by decide +kernel), exists_of_got (f := (·.err)) (by decide +kernel)⟩

theorem test_witness_OutcomesAreTheTabledCodes :
    Instr.WellFormed .gcmdec ∧ ∃ t, exec .gcmdec { reply7 with tag := 0 } = .next t ∧ t.err = 0x05#8 :=
  ⟨by decide, forged_fails⟩

theorem test_witness_CounterErrorNeedsALargeBuffer :
    ∃ t, exec .gcmenc exhausted = .next t ∧ t.err = 0x04#8 :=
  exists_of_got (f := (·.err)) (by decide +kernel)

/-- A call that completes, and one that ends with a wrong tag. -/
theorem test_witness_NoKeyMaterialAfterACall :
    (∃ t, exec .gcmenc call7 = .next t ∧ t.err = 0x00#8) ∧
    ∃ t, exec .gcmdec { reply7 with tag := 0 } = .next t ∧ t.err = 0x05#8 :=
  ⟨call7_completes, forged_fails⟩

/-- A command that is none of `CLR`, `GCMENC`, `GCMDEC`, and answers a next state. -/
theorem test_witness_OperandsSurviveCommands :
    Instr.ghash ≠ .clr ∧ Instr.ghash ≠ .gcmenc ∧ Instr.ghash ≠ .gcmdec ∧
      ∃ t, exec .ghash blank = .next t ∧ t.err = 0x00#8 :=
  ⟨by decide, by decide, by decide, exists_of_got (f := (·.err)) (by decide +kernel)⟩

/-- A command that writes text, and one that does not. -/
theorem test_witness_OnlyTheTextAreaIsWritten :
    (∃ t, exec .gcmenc call7 = .next t ∧ t.err = 0x00#8) ∧ call7.dlen.toNat ≤ 17 ∧
    Instr.gfmul ≠ .ctrxor ∧ Instr.gfmul ≠ .gcmenc ∧ Instr.gfmul ≠ .gcmdec ∧
      ∃ t, exec .gfmul call7 = .next t ∧ t.err = 0x00#8 :=
  ⟨call7_completes, by decide, by decide, by decide, by decide,
    exists_of_got (f := (·.err)) (by decide +kernel)⟩

/-- Buffers that differ from the ones of V-GCM7 in the first byte past each message. -/
theorem test_witness_BytesBeyondTheLengthsAreNotRead :
    let m : Memory := filled (bytesOf 4 0xa0a1a2ff)
    let n : Memory := filled (bytesOf 18 0x303132333435363738393a3b3c3d3e3f40ff)
    (∀ a < call7.alen.toNat,
      State.bufByte { call7 with abuf := m, ibuf := n } .abuf a = call7.bufByte .abuf a) ∧
    (∀ a < call7.dlen.toNat,
      State.bufByte { call7 with abuf := m, ibuf := n } .ibuf a = call7.bufByte .ibuf a) ∧
    (m ≠ call7.abuf ∧ n ≠ call7.ibuf) ∧ ∃ t, exec .gcmenc call7 = .next t ∧ t.err = 0x00#8 :=
  ⟨by decide +kernel, by decide +kernel, by decide +kernel, call7_completes⟩

/-- A command that writes text, with the last byte it writes and the first one it does not. -/
theorem test_witness_OutputBufferIsNotRead :
    writesText .gcmdec ∧ 16 < reply7.dlen.toNat ∧ ¬ 17 < reply7.dlen.toNat ∧
      ∃ t, exec .gcmdec reply7 = .next t ∧ t.err = 0x00#8 :=
  ⟨by decide, by decide, by decide, reply7_completes⟩

theorem test_witness_CommandsSeeOnlyTheCore : ∃ t, exec .gcmenc call7 = .next t ∧ t.err = 0x00#8 :=
  call7_completes

theorem test_witness_WorkingRegistersAreNotRead : ∃ t, exec .ghash call7 = .next t ∧ t.err = 0x03#8 :=
  exists_of_got (f := (·.err)) (by decide +kernel)

/-- Two wrong tags. -/
theorem test_witness_FailedDecryptionRevealsNothing :
    (∃ t, exec .gcmdec { reply7 with tag := 0#128 } = .next t ∧ t.err = 0x05#8) ∧
    ∃ t, exec .gcmdec { reply7 with tag := 1#128 } = .next t ∧ t.err = 0x05#8 :=
  ⟨forged_fails, exists_of_got (f := (·.err)) (by decide +kernel)⟩

theorem test_witness_AnyOtherTagIsRejected :
    (∃ t, exec .gcmdec reply7 = .next t ∧ t.err = 0x00#8) ∧ (0#128 : Block) ≠ reply7.tag :=
  ⟨reply7_completes, by decide⟩

/-- A state with a key, a schedule and written bytes meets the invariant, and it has a step. -/
theorem test_witness_EveryStepKeepsTheInvariant :
    (call7.withFetchWord 8 0x03).Inv ∧ ∃ t, step (call7.withFetchWord 8 0x03) = .next t ∧ t.err = 0x00#8 :=
  ⟨⟨by decide +kernel, by decide +kernel, by decide +kernel, by decide +kernel⟩,
    exists_of_got (f := (·.err)) (by decide +kernel)⟩

theorem test_witness_CapacitiesNeverChange :
    ∃ t, step (blank.withFetchWord 8 0x05) = .next t ∧ t.err = 0x02#8 :=
  exists_of_got (f := (·.err)) (by decide +kernel)

theorem test_witness_SboxTableIsTheFormula :
    (1#8 : Byte) ≠ 0 ∧ gf8Mul 1#8 1#8 = 0x01#8 ∧ sbox 1#8 = sbox 1#8 := by decide +kernel

theorem test_witness_KeyExpandFollowsTheWordRecurrence :
    4 ≤ 4 ∧ 43 < 44 ∧ 4 % 4 = 0 ∧ ¬ 43 % 4 = 0 := by decide

theorem test_witness_RoundOperationsByByte : 15 < 16 ∧ 3 < 4 := by decide

theorem test_witness_GhashFoldsInOrder : (zeros 32).length % 16 = 0 ∧ (zeros 16).length = 16 := by
  decide

theorem test_witness_CounterWrapsToOne : 0xFFFFFFFE#32 ≠ 0xFFFFFFFF#32 := by decide

/-- The first and the last block of a text of two. -/
theorem test_witness_CountersOfAPassAreDistinct :
    ceil16 (zeros 20).length ≤ 2 ^ 32 - 2 ∧ 0 < ceil16 (zeros 20).length ∧
      1 < ceil16 (zeros 20).length ∧ 0 < 1 := by decide

theorem test_witness_CounterModeInClosedForm :
    ((zeros 20).length + 15) / 16 ≤ 2 ^ 32 - 2 ∧ 19 < (zeros 20).length := by decide

/-- Each of the two messages has a last byte and a padding byte. -/
theorem test_witness_AuthenticatorInputShape :
    2 < [1#8, 2#8, 3#8].length ∧ 15 < 16 * ceil16 [1#8, 2#8, 3#8].length ∧
      [1#8, 2#8, 3#8].length ≤ 3 := by decide

/-- V-GCM7 encrypted, its output moved to `IBUF` and the key and IV written again. -/
theorem test_witness_GcmdecRestoresWhatGcmencHid :
    ∃ t u : State, exec .gcmenc call7 = .next t ∧ t.err = 0x00#8 ∧
      u = { t with key := call7.key, keyv := true, iv := call7.iv, ivv := true, ibuf := u.ibuf } ∧
      ∀ k < call7.dlen.toNat, u.bufByte .ibuf k = t.bufByte .obuf k := by
  obtain ⟨t, h, e⟩ := exists_of_got test_gcmenc_encrypts
  refine ⟨t, { t with
    key := call7.key, keyv := true, iv := call7.iv, ivv := true
    ibuf := filled (bytesOf 17 0xf41f319c3b7a80d82fe467cefb1ad5017a) },
    h, congrArg Prod.fst e, rfl, fun k hk => ?_⟩
  have hk : k < 17 := hk
  have e2 := congrArg (fun p => p.2.1[k]?) e
  simp only [State.memRead, List.getElem?_map, List.getElem?_range hk, Option.map_some] at e2
  have e3 : (bytesOf 17 0xf41f319c3b7a80d82fe467cefb1ad5017a)[k]? = some (t.bufByte .obuf k) := by
    rw [← e2, Nat.zero_add]
  interval_cases k <;> exact Option.some.inj e3

end Sys2Proof.Tests
end

section
/-! PROOFS. The state of the core, its registers and its buffers: what each event and each command can
do to them, said once, and the invariant of the machine (spec 10_state.md). -/

namespace Sys2Proof.Machine

/-! ### What an event can do -/

/-- What a transaction does to the state before its response is appended (spec
40_host_transactions.md R100 to R107). -/
inductive Effect (s : State) : Transaction → State → Prop
  /-- A read or a bus error (R104, R107, R218). -/
  | unchanged (x : Transaction) : Effect s x s
  | key (v : Block) : Effect s (wrKey v) (s.loadKey v)
  | iv (v : IvWord) : Effect s (wrIv v) (s.loadIv v)
  | alen (v : Length) : Effect s (wrAlen v) (s.setAlen v)
  | dlen (v : Length) : Effect s (wrDlen v) (s.setDlen v)
  | tag (v : Block) : Effect s (wrTag v) (s.setTag v)
  | opa (v : Block) : Effect s (wrOpa v) (s.setOpa v)
  | opb (v : Block) : Effect s (wrOpb v) (s.setOpb v)
  | command {b : Byte} {i : Instr} {u : State} (hb : decode b = .ok i) (hu : exec i s = .next u) :
      Effect s (wrCmd b) u
  | illegal (b : Byte) : Effect s (wrCmd b) (s.report .illegal)
  | byte {n : Byte} {a : Length} {sp : Space} (b : Byte) (h : s.target n a = some sp) :
      Effect s (.bufWrite n a b) (s.memWrite sp a.toNat [b])

theorem writeCmd_effect {b : Byte} {s t : State} (h : writeCmd b s = .next t) :
    ∃ u r, Effect s (wrCmd b) u ∧ t = u.respond r := by
  unfold writeCmd at h
  split at h
  · rename_i i hb
    obtain ⟨u, hu⟩ : ∃ u, exec i s = .next u := exec_eq i s ▸ runCommand_ends _ _ s
    rw [hu] at h
    exact ⟨u, .ok, .command hb hu, (Host.Outcome.next.inj h).symm⟩
  · exact ⟨_, .ok, .illegal b, (Host.Outcome.next.inj h).symm⟩

theorem writeBuf_effect {n b : Byte} {a : Length} {s t : State} (h : writeBuf n a b s = .next t) :
    ∃ u r, Effect s (.bufWrite n a b) u ∧ t = u.respond r := by
  unfold writeBuf at h
  split at h
  · rename_i sp hsp
    exact ⟨_, .ok, .byte b hsp, (Host.Outcome.next.inj h).symm⟩
  · exact ⟨s, .busError, .unchanged _, (Host.Outcome.next.inj h).symm⟩

theorem readBuf_respond {n : Byte} {a : Length} {s t : State} (h : readBuf n a s = .next t) :
    ∃ r, t = s.respond r := by
  unfold readBuf at h
  split at h <;> exact ⟨_, (Host.Outcome.next.inj h).symm⟩

theorem readReg_respond {r : Byte} {s t : State} (h : readReg r s = .next t) :
    ∃ a, t = s.respond a := by
  unfold readReg at h
  split at h <;> exact ⟨_, (Host.Outcome.next.inj h).symm⟩

/-- A transaction has one of the effects above and then gets its response. -/
theorem transact_effect {x : Transaction} {s t : State} (h : transact x s = .next t) :
    ∃ u r, Effect s x u ∧ t = u.respond r := by
  rcases transaction_cases x with ⟨b, rfl⟩ | ⟨v, rfl⟩ | ⟨v, rfl⟩ | ⟨v, rfl⟩ | ⟨v, rfl⟩ | ⟨v, rfl⟩ |
    ⟨v, rfl⟩ | ⟨v, rfl⟩ | ⟨r, v, -, -, hbus⟩ | ⟨r, rfl⟩ | ⟨n, a, b, rfl⟩ | ⟨n, a, rfl⟩
  · exact writeCmd_effect h
  · exact ⟨_, .ok, .key v, (Host.Outcome.next.inj h).symm⟩
  · exact ⟨_, .ok, .iv v, (Host.Outcome.next.inj h).symm⟩
  · exact ⟨_, .ok, .alen v, (Host.Outcome.next.inj h).symm⟩
  · exact ⟨_, .ok, .dlen v, (Host.Outcome.next.inj h).symm⟩
  · exact ⟨_, .ok, .tag v, (Host.Outcome.next.inj h).symm⟩
  · exact ⟨_, .ok, .opa v, (Host.Outcome.next.inj h).symm⟩
  · exact ⟨_, .ok, .opb v, (Host.Outcome.next.inj h).symm⟩
  · rw [hbus] at h
    exact ⟨s, .busError, .unchanged _, (Host.Outcome.next.inj h).symm⟩
  · obtain ⟨a, rfl⟩ := readReg_respond h
    exact ⟨s, a, .unchanged _, rfl⟩
  · exact writeBuf_effect h
  · obtain ⟨a, rfl⟩ := readBuf_respond h
    exact ⟨s, a, .unchanged _, rfl⟩

/-- A step is idle, a transaction's effect with its response, or a reset. -/
theorem step_cases {s t : State} (h : step s = .next t) :
    t = s ∨ (∃ x rest u r, Effect (s.setInbox rest) x u ∧ t = u.respond r) ∨
      ∃ rest, t = (s.setInbox rest).afterReset := by
  cases hq : s.inbox with
  | nil =>
    rw [step_idle hq] at h
    exact .inl (Host.Outcome.next.inj h).symm
  | cons e rest =>
    cases e with
    | transaction x =>
      rw [step_transaction hq] at h
      obtain ⟨u, r, hu, ht⟩ := transact_effect h
      exact .inr (.inl ⟨x, rest, u, r, hu, ht⟩)
    | reset =>
      rw [step_reset hq] at h
      exact .inr (.inr ⟨rest, (Host.Outcome.next.inj h).symm⟩)

/-! ### What the run of a command leaves -/

/-- A counter-mode pass after `n` blocks has put out as much as `n` blocks cover. -/
theorem length_ctrPrefix_out (rk : Schedule) (iv : IvWord) (d : List Byte) (n : Nat) :
    (ctrPrefix rk iv d n).out.length = min (16 * n) d.length := by
  induction n with
  | zero => simp
  | succ n ih =>
    rw [ctrPrefix_succ]
    simp only [ctrStep, List.length_append, length_xorBytes, length_piece, length_blockBytes, ih]
    omega

/-- Counter mode keeps the length (spec 45_counter_mode.md R182). -/
@[simp] theorem length_ctrXor (rk : Schedule) (iv : IvWord) (d : List Byte) :
    (ctrXor rk iv d).length = d.length := by
  have h : ctrXor rk iv d = (ctrPrefix rk iv d (ceil16 d.length)).out := rfl
  rw [h, length_ctrPrefix_out, ceil16]
  omega

/-- What the run of a command can do: the chain of its updates, of the values it writes only what the
invariant speaks of. -/
inductive Run (s : State) : Instr → State → Prop
  | expand {rk : Schedule} (hrk : rk = keyExpand s.key) :
      Run s .keyexp (((s.setRk rk).setRkv true).report .ok)
  | cipher (v : Block) : Run s .aesenc ((s.setRes v).report .ok)
  | product (v : Block) : Run s .gfmul ((s.setRes v).report .ok)
  | roundKey (n : BitVec 4) (v : Block) : Run s (.rkrd n) ((s.setRes v).report .ok)
  | digest (h y v : Block) :
      Run s .ghash ((((s.setH h).setY y).setRes v).releaseWorking.report .ok)
  | stream (ctr : Word) {v : List Byte} (hv : v.length = s.dlen.toNat) :
      Run s .ctrxor (((s.setCtr ctr).memWrite .obuf 0 v).releaseWorking.report .ok)
  | encrypt (rk : Schedule) (h y ej0 tag : Block) (ctr : Word) {v : List Byte}
      (hv : v.length = s.dlen.toNat) :
      Run s .gcmenc ((((((((s.setRk rk).setH h).setCtr ctr).memWrite .obuf 0 v).setY y).setEj0
        ej0).setTag tag).zeroKeys.releaseWorking.report .ok)
  | decrypt (rk : Schedule) (h y ej0 : Block) (ctr : Word) {v : List Byte}
      (hv : v.length = s.dlen.toNat) :
      Run s .gcmdec (((((((s.setRk rk).setH h).setY y).setEj0 ej0).setCtr ctr).memWrite .obuf 0
        v).zeroKeys.releaseWorking.report .ok)
  | reject (rk : Schedule) (h y ej0 : Block) :
      Run s .gcmdec (((((s.setRk rk).setH h).setY y).setEj0
        ej0).zeroKeys.releaseWorking.report .auth)
  | clear : Run s .clr s.releaseWorking.clearRegisters

theorem commandBody_run (i : Instr) (s : State) : Run s i (commandBody i s) := by
  cases i with
  | keyexp => exact .expand rfl
  | aesenc => exact .cipher _
  | gfmul => exact .product _
  | rkrd n => exact .roundKey n _
  | ghash => exact .digest _ _ _
  | clr => exact .clear
  | ctrxor => exact .stream _ (by simp)
  | gcmenc =>
    change Run s .gcmenc (gcmencBody s)
    rw [gcmencBody_eq]
    exact .encrypt _ _ _ _ _ _ (by simp)
  | gcmdec =>
    change Run s .gcmdec (gcmdecBody s)
    rw [gcmdecBody_eq]
    split
    · exact .decrypt _ _ _ _ _ (by simp)
    · exact .reject _ _ _ _

/-- A command refuses with its first failing test, or passes them all and runs. -/
theorem exec_run {i : Instr} {s t : State} (h : exec i s = .next t) :
    (∃ e, firstFailure (commandTests s i) = some e ∧ t = s.report e) ∨
      (firstFailure (commandTests s i) = none ∧ Run s i t) :=
  (exec_cases h).imp id fun ⟨hrun, ht⟩ => ⟨hrun, ht ▸ commandBody_run i s⟩

/-- A run leaves the capacities, the count of resets, the host's queue and the responses. -/
theorem Run.surroundings {i : Instr} {s t : State} (h : Run s i t) :
    t.abufSize = s.abufSize ∧ t.dbufSize = s.dbufSize ∧ t.resets = s.resets ∧ t.inbox = s.inbox ∧
      t.responses = s.responses := by
  cases h <;> simp

/-- A run writes at most one output, as long as the text, at the start of `OBUF` (spec 20_memory.md
R66). -/
theorem Run.buffers {i : Instr} {s t : State} (h : Run s i t) :
    ∃ v : List Byte, (v = [] ∨ writesText i = true ∧ v.length = s.dlen.toNat) ∧
      t.abuf = s.abuf ∧ t.ibuf = s.ibuf ∧ t.obuf = s.obuf.writeBytes 0 v := by
  cases h with
  | expand | cipher | product | roundKey | digest | reject | clear =>
    exact ⟨[], .inl rfl, by simp [Memory.writeBytes]⟩
  | stream _ hv | decrypt _ _ _ _ _ hv | encrypt _ _ _ _ _ _ hv =>
    exact ⟨_, .inr ⟨rfl, hv⟩, by simp⟩

/-- Only `CLR` writes a length or an operand register (spec 10_state.md R25, R27). -/
theorem Run.operands {i : Instr} {s t : State} (h : Run s i t) (hclr : i ≠ .clr) :
    t.alen = s.alen ∧ t.dlen = s.dlen ∧ t.opa = s.opa ∧ t.opb = s.opb := by
  cases h with
  | clear => exact absurd rfl hclr
  | expand | cipher | product | roundKey | digest | stream | encrypt | decrypt | reject => simp

/-- Only a discard and `CLR` write `KEY`, `IV` and their flags (spec 10_state.md R37 item a). -/
theorem Run.keyAndIv {i : Instr} {s t : State} (h : Run s i t) (hclr : i ≠ .clr) (henc : i ≠ .gcmenc)
    (hdec : i ≠ .gcmdec) :
    t.key = s.key ∧ t.iv = s.iv ∧ t.keyv = s.keyv ∧ t.ivv = s.ivv := by
  cases h with
  | clear => exact absurd rfl hclr
  | encrypt => exact absurd rfl henc
  | decrypt | reject => exact absurd rfl hdec
  | expand | cipher | product | roundKey | digest | stream => simp

/-- No key, IV or round key is left and no flag is set (spec 10_state.md R37 item e). -/
structure State.NoKeyMaterial (s : State) : Prop where
  key : s.key = 0
  keyv : s.keyv = false
  iv : s.iv = 0
  ivv : s.ivv = false
  rk : s.rk = Vector.replicate 11 0
  rkv : s.rkv = false

/-- `Discard()` leaves no key material, whatever is reported afterwards (spec 46_gcm.md R197). -/
theorem noKeyMaterial_discard (s : State) (e : ErrCode) :
    (s.zeroKeys.releaseWorking.report e).NoKeyMaterial := ⟨rfl, rfl, rfl, rfl, rfl, rfl⟩

/-- A call that has run leaves no key material, whether the tag matched or not (spec 46_gcm.md R197). -/
theorem Run.call_noKeyMaterial {i : Instr} {s t : State} (h : Run s i t)
    (hi : i = .gcmenc ∨ i = .gcmdec) : t.NoKeyMaterial := by
  cases h with
  | encrypt | decrypt | reject => exact noKeyMaterial_discard _ _
  | expand | cipher | product | roundKey | digest | stream | clear => simp at hi

/-- Reset values hold no key material (spec 10_state.md R38, 40_host_transactions.md R106). -/
theorem noKeyMaterial_clearRegisters (s : State) : s.clearRegisters.NoKeyMaterial :=
  ⟨rfl, rfl, rfl, rfl, rfl, rfl⟩

/-- A round key of the cleared file is zero (spec 10_state.md R33). -/
@[simp] theorem roundKey_replicate_zero (r : Nat) : roundKey (Vector.replicate 11 0) r = 0 := by
  unfold roundKey
  simp only [Vector.toList_replicate, List.getD_eq_getElem?_getD, List.getElem?_replicate]
  split <;> rfl

/-! ### The invariant, part by part -/

theorem errLegal_code (e : ErrCode) : e.code.toNat ≤ 5 := by cases e <;> decide

/-- The buffers are canonical and inside their sizes, stated for each buffer. -/
theorem State.buffersOk_iff {s : State} :
    s.buffersOk ↔ ∀ sp, (s.buf sp).wf ∧ (s.buf sp).inside (s.bufSize sp) := by
  constructor
  · rintro ⟨ha, hi, ho⟩ sp
    cases sp
    · exact ha
    · exact hi
    · exact ho
  · exact fun h => ⟨h .abuf, h .ibuf, h .obuf⟩

/-- Bytes written inside a buffer keep the buffers canonical and inside their sizes (spec 10_state.md
R36). -/
theorem State.buffersOk_memWrite {s : State} (h : s.buffersOk) {sp : Space} {a : Nat} {v : List Byte}
    (hv : a + v.length ≤ s.bufSize sp) : (s.memWrite sp a v).buffersOk := by
  rw [State.buffersOk_iff] at h ⊢
  intro sp'
  rw [State.memWrite_bufSize]
  by_cases hsp : sp' = sp
  · subst hsp
    obtain ⟨hwf, hin⟩ := h sp'
    rw [State.memWrite_buf_same]
    exact ⟨Memory.wf_writeBytes hwf a v, Memory.inside_writeBytes hin v hv⟩
  · rw [State.memWrite_buf_other s a v hsp]
    exact h sp'

/-- No test fails where none is found to fail. -/
theorem firstFailure_eq_none {l : List (Bool × ErrCode)} :
    firstFailure l = none ↔ ∀ p ∈ l, p.1 = false := by
  induction l with
  | nil => simp
  | cons p l ih =>
    obtain ⟨fails, e⟩ := p
    cases fails <;> simp [ih]

/-- A command that writes text has passed the test of its length (spec 60_exceptions.md R214). -/
theorem text_fits_of_runs {i : Instr} {s : State} (hi : writesText i = true)
    (hrun : firstFailure (commandTests s i) = none) : s.dlen.toNat ≤ s.dbufSize := by
  have hpass := firstFailure_eq_none.1 hrun
  have hlong : s.textTooLong = false := by
    cases i with
    | ctrxor => exact hpass (s.textTooLong, .length) (by simp [commandTests])
    | gcmenc | gcmdec =>
      have h := hpass (s.aadTooLong || s.textTooLong, .length) (by simp [commandTests, State.gcmTests])
      exact (Bool.or_eq_false_iff.1 h).2
    | keyexp | aesenc | gfmul | ghash | clr | rkrd n => cases hi
  exact (State.textTooLong_eq_false.1 hlong).1

theorem Run.buffersOk {i : Instr} {s t : State} (h : Run s i t) (hok : s.buffersOk)
    (hrun : firstFailure (commandTests s i) = none) : t.buffersOk := by
  obtain ⟨v, hv, habuf, hibuf, hobuf⟩ := h.buffers
  obtain ⟨hasize, hdsize, -⟩ := h.surroundings
  have hfits : 0 + v.length ≤ s.bufSize .obuf := by
    rcases hv with rfl | ⟨hi, hlen⟩
    · exact Nat.zero_le _
    · simpa [hlen] using text_fits_of_runs hi hrun
  have hw := State.buffersOk_memWrite hok hfits
  simpa only [State.buffersOk, habuf, hibuf, hobuf, hasize, hdsize, State.memWrite_obuf_abuf,
    State.memWrite_obuf_ibuf, State.memWrite_obuf_obuf, State.memWrite_abufSize,
    State.memWrite_dbufSize] using hw

/-- The part of the invariant about keys, flags and round keys (spec 10_state.md R29, R33). -/
def State.KeysOk (s : State) : Prop := s.scheduleOk ∧ s.nothingRetained

theorem State.NoKeyMaterial.keysOk {s : State} (h : s.NoKeyMaterial) : s.KeysOk :=
  ⟨fun hv => by simp [h.rkv] at hv, fun _ => h.key, fun _ => h.iv, fun _ => h.rk⟩

theorem Run.keysOk {i : Instr} {s t : State} (h : Run s i t) (hok : s.KeysOk)
    (hrun : firstFailure (commandTests s i) = none) : t.KeysOk := by
  cases h with
  | encrypt | decrypt | reject => exact (noKeyMaterial_discard _ _).keysOk
  | clear => exact (noKeyMaterial_clearRegisters _).keysOk
  | cipher | product | roundKey | digest | stream =>
    simpa [State.KeysOk, State.scheduleOk, State.nothingRetained] using hok
  | expand hrk =>
    have hkeyv : s.keyv = true := by simpa [commandTests] using hrun
    obtain ⟨-, -, hiv, -⟩ := hok
    simpa [State.KeysOk, State.scheduleOk, State.nothingRetained, hkeyv, hrk] using hiv

/-! ### The invariant is kept -/

theorem State.Inv.keysOk {s : State} (h : s.Inv) : s.KeysOk := ⟨h.schedule, h.retained⟩

theorem State.KeysOk.inv {s : State} (hk : s.KeysOk) (he : s.errLegal) (hb : s.buffersOk) : s.Inv :=
  ⟨hk.1, hk.2, he, hb⟩

theorem State.Inv.report {s : State} (h : s.Inv) (e : ErrCode) : (s.report e).Inv :=
  ⟨h.schedule, h.retained, errLegal_code e, h.buffers⟩

theorem State.Inv.respond {s : State} (h : s.Inv) (r : Response) : (s.respond r).Inv :=
  ⟨h.schedule, h.retained, h.err, h.buffers⟩

theorem State.Inv.setInbox {s : State} (h : s.Inv) (q : List HostEvent) : (s.setInbox q).Inv :=
  ⟨h.schedule, h.retained, h.err, h.buffers⟩

/-- A new key comes without a schedule (spec 40_host_transactions.md R101). -/
theorem State.Inv.loadKey {s : State} (h : s.Inv) (v : Block) : (s.loadKey v).Inv where
  schedule := by simp [State.scheduleOk]
  retained := by
    obtain ⟨-, hiv, -⟩ := h.retained
    simpa [State.nothingRetained] using hiv
  err := h.err
  buffers := h.buffers

theorem State.Inv.loadIv {s : State} (h : s.Inv) (v : IvWord) : (s.loadIv v).Inv where
  schedule := h.schedule
  retained := by
    obtain ⟨hkey, -, hrk⟩ := h.retained
    simpa [State.nothingRetained] using And.intro hkey hrk
  err := h.err
  buffers := h.buffers

theorem State.Inv.memWrite {s : State} (h : s.Inv) {sp : Space} {a : Nat} {v : List Byte}
    (hv : a + v.length ≤ s.bufSize sp) : (s.memWrite sp a v).Inv where
  schedule := by simpa [State.scheduleOk] using h.schedule
  retained := by simpa [State.nothingRetained] using h.retained
  err := by simpa [State.errLegal] using h.err
  buffers := State.buffersOk_memWrite h.buffers hv

theorem Run.errLegal {i : Instr} {s t : State} (h : Run s i t) : t.errLegal := by
  cases h <;> exact errLegal_code _

/-- Every command keeps the invariant, refused or run. -/
theorem exec_inv {i : Instr} {s t : State} (h : s.Inv) (ht : exec i s = .next t) : t.Inv := by
  rcases exec_run ht with ⟨e, -, rfl⟩ | ⟨hpass, hrun⟩
  · exact h.report e
  · exact (hrun.keysOk h.keysOk hpass).inv hrun.errLegal (hrun.buffersOk h.buffers hpass)

theorem Effect.inv {s u : State} {x : Transaction} (h : s.Inv) (hu : Effect s x u) : u.Inv := by
  cases hu with
  | unchanged => exact h
  | key v => exact h.loadKey v
  | iv v => exact h.loadIv v
  | alen | dlen | tag | opa | opb => exact ⟨h.schedule, h.retained, h.err, h.buffers⟩
  | command _ hexec => exact exec_inv h hexec
  | illegal => exact h.report .illegal
  | byte b htarget => exact h.memWrite (target_eq_some.1 htarget).2

theorem buffersOk_of_unwritten {s : State} (ha : s.abuf = []) (hi : s.ibuf = []) (ho : s.obuf = []) :
    s.buffersOk := by
  simp [State.buffersOk, Memory.wf, Memory.inside, ha, hi, ho]

theorem afterReset_inv (s : State) : s.afterReset.Inv :=
  have hnone : s.afterReset.NoKeyMaterial := ⟨rfl, rfl, rfl, rfl, rfl, rfl⟩
  hnone.keysOk.inv (errLegal_code .ok) (buffersOk_of_unwritten rfl rfl rfl)

theorem resetWith_inv (asize dsize : Nat) : (State.resetWith asize dsize).Inv :=
  have hnone : (State.resetWith asize dsize).NoKeyMaterial := ⟨rfl, rfl, rfl, rfl, rfl, rfl⟩
  hnone.keysOk.inv (errLegal_code .ok) (buffersOk_of_unwritten rfl rfl rfl)

/-- Settles O40, by the event the step takes: the invariant is kept by each effect of a transaction,
among them every command, and holds after every reset. -/
theorem everyStepKeepsTheInvariant : Obligations.EveryStepKeepsTheInvariant := by
  intro s t h ht
  rcases step_cases ht with rfl | ⟨x, rest, u, r, hu, rfl⟩ | ⟨rest, rfl⟩
  · exact h
  · exact (hu.inv (h.setInbox rest)).respond r
  · exact afterReset_inv _

/-- Settles O41: reset sets no flag, retains no key and lists no byte. -/
theorem resetMeetsTheInvariant : Obligations.ResetMeetsTheInvariant :=
  ⟨resetWith_inv, resetWith_inv _ _⟩

/-! ### `ERR` and the capacities -/

/-- Settles O16: of the effects of a transaction only the two of a `CMD` write touch `ERR`. -/
theorem onlyCommandsWriteErr : Obligations.OnlyCommandsWriteErr := by
  intro s t x hx ht
  obtain ⟨u, r, hu, rfl⟩ := transact_effect ht
  cases hu with
  | command => exact absurd rfl (hx _)
  | illegal => exact absurd rfl (hx _)
  | byte => simp
  | unchanged | key | iv | alen | dlen | tag | opa | opb => rfl

/-- A command leaves the capacities, the count of resets, the host's queue and the responses. -/
theorem exec_surroundings {i : Instr} {s t : State} (ht : exec i s = .next t) :
    t.abufSize = s.abufSize ∧ t.dbufSize = s.dbufSize ∧ t.resets = s.resets ∧ t.inbox = s.inbox ∧
      t.responses = s.responses := by
  rcases exec_run ht with ⟨e, -, rfl⟩ | ⟨-, hrun⟩
  · exact ⟨rfl, rfl, rfl, rfl, rfl⟩
  · exact hrun.surroundings

theorem Effect.capacities {s u : State} {x : Transaction} (hu : Effect s x u) :
    u.abufSize = s.abufSize ∧ u.dbufSize = s.dbufSize := by
  cases hu with
  | command _ hexec =>
    obtain ⟨ha, hd, -⟩ := exec_surroundings hexec
    exact ⟨ha, hd⟩
  | byte => simp
  | unchanged | key | iv | alen | dlen | tag | opa | opb | illegal => exact ⟨rfl, rfl⟩

/-- Settles O42, by the event the step takes. -/
theorem capacitiesNeverChange : Obligations.CapacitiesNeverChange := by
  intro s t ht
  rcases step_cases ht with rfl | ⟨x, rest, u, r, hu, rfl⟩ | ⟨rest, rfl⟩
  · exact ⟨rfl, rfl⟩
  · exact hu.capacities
  · exact ⟨rfl, rfl⟩

/-! ### Key material and operands under a command -/

/-- A refusal reports none of the two codes a run can end with (spec 60_exceptions.md R210). -/
theorem refusal_code_ne {s : State} {i : Instr} {e : ErrCode}
    (h : firstFailure (commandTests s i) = some e) : e.code ≠ 0x00#8 ∧ e.code ≠ 0x05#8 := by
  rcases refusal_cases h with ⟨rfl, -⟩ | ⟨rfl, -⟩ | ⟨rfl, -⟩ | ⟨rfl, -⟩ <;> decide

/-- Settles O32: a call with one of the two codes was not refused, so it has run and discarded. -/
theorem noKeyMaterialAfterACall : Obligations.NoKeyMaterialAfterACall := by
  intro i s t hi ht herr
  rcases exec_run ht with ⟨e, he, rfl⟩ | ⟨-, hrun⟩
  · obtain ⟨hok, hauth⟩ := refusal_code_ne he
    exact absurd herr (not_or.2 ⟨hok, hauth⟩)
  · have h := hrun.call_noKeyMaterial hi
    exact ⟨h.keyv, h.ivv, h.rkv, h.key, h.iv, fun r _ => by rw [h.rk, roundKey_replicate_zero]⟩

/-- Unchanged contents read as before, where no reset has come between. -/
theorem State.bufByte_congr {s t : State} {sp : Space} (hbuf : t.buf sp = s.buf sp)
    (hresets : t.resets = s.resets) (a : Nat) : t.bufByte sp a = s.bufByte sp a := by
  simp only [State.bufByte, hbuf, hresets]

/-- Settles O33: a refusal changes `ERR` alone, and a run stays in its frames. -/
theorem operandsSurviveCommands : Obligations.OperandsSurviveCommands := by
  intro i s t ht
  rcases exec_run ht with ⟨e, -, rfl⟩ | ⟨-, hrun⟩
  · simp
  · obtain ⟨-, -, habuf, hibuf, -⟩ := hrun.buffers
    obtain ⟨-, -, hresets, -⟩ := hrun.surroundings
    exact ⟨State.bufByte_congr habuf hresets, State.bufByte_congr hibuf hresets, hrun.operands,
      hrun.keyAndIv⟩

/-! ### What a command does not read -/

/-- A state with other values in the working registers (spec 10_state.md R34). -/
def State.withWorking (s : State) (h y ej0 : Block) (ctr : Word) : State :=
  { s with h := h, y := y, ctr := ctr, ej0 := ej0 }

theorem commandTests_withWorking (s : State) (h y ej0 : Block) (ctr : Word) (i : Instr) :
    commandTests (s.withWorking h y ej0 ctr) i = commandTests s i := by
  cases i <;> rfl

/-- What the runs read of the state is not in the working registers. -/
theorem State.withWorking_reads (s : State) (h y ej0 : Block) (ctr : Word) :
    (s.withWorking h y ej0 ctr).key = s.key ∧ (s.withWorking h y ej0 ctr).iv = s.iv ∧
      (s.withWorking h y ej0 ctr).rk = s.rk ∧ (s.withWorking h y ej0 ctr).opb = s.opb ∧
      (s.withWorking h y ej0 ctr).tag = s.tag ∧ (s.withWorking h y ej0 ctr).text = s.text ∧
      (s.withWorking h y ej0 ctr).aad = s.aad := ⟨rfl, rfl, rfl, rfl, rfl, rfl, rfl⟩

/-- An update of a working register replaces its value, and every other one keeps it. -/
theorem State.withWorking_updates (s : State) (h y ej0 : Block) (ctr : Word) :
    (∀ v, (s.withWorking h y ej0 ctr).setRk v = (s.setRk v).withWorking h y ej0 ctr) ∧
      (∀ v, (s.withWorking h y ej0 ctr).setRes v = (s.setRes v).withWorking h y ej0 ctr) ∧
      (∀ v, (s.withWorking h y ej0 ctr).setTag v = (s.setTag v).withWorking h y ej0 ctr) ∧
      (∀ v, (s.withWorking h y ej0 ctr).setH v = (s.setH v).withWorking v y ej0 ctr) ∧
      (∀ v, (s.withWorking h y ej0 ctr).setY v = (s.setY v).withWorking h v ej0 ctr) ∧
      (∀ v, (s.withWorking h y ej0 ctr).setEj0 v = (s.setEj0 v).withWorking h y v ctr) ∧
      (∀ v, (s.withWorking h y ej0 ctr).setCtr v = (s.setCtr v).withWorking h y ej0 v) ∧
      (∀ v, (s.withWorking h y ej0 ctr).memWrite .obuf 0 v =
        (s.memWrite .obuf 0 v).withWorking h y ej0 ctr) ∧
      (s.withWorking h y ej0 ctr).zeroKeys = s.zeroKeys.withWorking h y ej0 ctr :=
  ⟨fun _ => rfl, fun _ => rfl, fun _ => rfl, fun _ => rfl, fun _ => rfl, fun _ => rfl, fun _ => rfl,
    fun _ => rfl, rfl⟩

/-- Released working registers do not depend on what they held. -/
theorem State.withWorking_releaseWorking (s : State) (h y ej0 : Block) (ctr : Word) :
    (s.withWorking h y ej0 ctr).releaseWorking = s.releaseWorking := rfl

theorem sameButWorking_withWorking (s : State) (h y ej0 : Block) (ctr : Word) :
    SameButWorking s (s.withWorking h y ej0 ctr) := rfl

/-- A run either leaves the working registers alone or writes what it reads of them and releases them
at its end. -/
theorem commandBody_withWorking (s : State) (h y ej0 : Block) (ctr : Word) (i : Instr) :
    SameButWorking (commandBody i s) (commandBody i (s.withWorking h y ej0 ctr)) := by
  cases i with
  | keyexp | aesenc | gfmul | rkrd n => exact sameButWorking_withWorking _ h y ej0 ctr
  | clr => exact SameButWorking.refl _
  | ghash =>
    simp only [commandBody, ghashBody_eq, State.withWorking_reads, State.withWorking_updates,
      State.withWorking_releaseWorking, SameButWorking.refl]
  | ctrxor =>
    simp only [commandBody, ctrxorBody_eq, State.withWorking_reads, State.withWorking_updates,
      State.withWorking_releaseWorking, SameButWorking.refl]
  | gcmenc =>
    simp only [commandBody, gcmencBody_eq, State.withSchedule, State.withTagOf,
      State.withWorking_reads, State.withWorking_updates, State.withWorking_releaseWorking,
      SameButWorking.refl]
  | gcmdec =>
    simp only [commandBody, gcmdecBody_eq, State.withSchedule, State.withTagOf,
      State.withWorking_reads, State.withWorking_updates, State.withWorking_releaseWorking,
      SameButWorking.refl]

/-- Settles O37: the tests do not look at the working registers, and the run writes them first. -/
theorem workingRegistersAreNotRead : Obligations.WorkingRegistersAreNotRead := by
  intro i s t h y ej0 ctr ht
  have htests := commandTests_withWorking s h y ej0 ctr i
  rcases exec_cases ht with ⟨e, he, rfl⟩ | ⟨hrun, rfl⟩
  · exact ⟨_, (exec_eq i _).trans (runCommand_refuse _ _ (htests.symm ▸ he)), rfl⟩
  · exact ⟨_, (exec_eq i _).trans (runCommand_run _ _ (htests.symm ▸ hrun)),
      commandBody_withWorking s h y ej0 ctr i⟩

/-- A state with another queue and other responses around the core (assumption log 16). -/
def State.withEnvelope (s : State) (q : List HostEvent) (l : List Response) : State :=
  { s with inbox := q, responses := l }

theorem commandTests_withEnvelope (s : State) (q : List HostEvent) (l : List Response) (i : Instr) :
    commandTests (s.withEnvelope q l) i = commandTests s i := by
  cases i <;> rfl

/-- What the runs read of the state is inside the core. -/
theorem State.withEnvelope_reads (s : State) (q : List HostEvent) (l : List Response) :
    (s.withEnvelope q l).key = s.key ∧ (s.withEnvelope q l).iv = s.iv ∧
      (s.withEnvelope q l).rk = s.rk ∧ (s.withEnvelope q l).opb = s.opb ∧
      (s.withEnvelope q l).tag = s.tag ∧ (s.withEnvelope q l).text = s.text ∧
      (s.withEnvelope q l).aad = s.aad := ⟨rfl, rfl, rfl, rfl, rfl, rfl, rfl⟩

/-- The updates the runs are chains of work inside the core. -/
theorem State.withEnvelope_updates (s : State) (q : List HostEvent) (l : List Response) :
    (∀ v, (s.withEnvelope q l).setRk v = (s.setRk v).withEnvelope q l) ∧
      (∀ v, (s.withEnvelope q l).setRes v = (s.setRes v).withEnvelope q l) ∧
      (∀ v, (s.withEnvelope q l).setTag v = (s.setTag v).withEnvelope q l) ∧
      (∀ v, (s.withEnvelope q l).setH v = (s.setH v).withEnvelope q l) ∧
      (∀ v, (s.withEnvelope q l).setY v = (s.setY v).withEnvelope q l) ∧
      (∀ v, (s.withEnvelope q l).setCtr v = (s.setCtr v).withEnvelope q l) ∧
      (∀ v, (s.withEnvelope q l).setEj0 v = (s.setEj0 v).withEnvelope q l) ∧
      (∀ v, (s.withEnvelope q l).memWrite .obuf 0 v = (s.memWrite .obuf 0 v).withEnvelope q l) ∧
      (s.withEnvelope q l).zeroKeys = s.zeroKeys.withEnvelope q l ∧
      (s.withEnvelope q l).releaseWorking = s.releaseWorking.withEnvelope q l ∧
      ∀ e, (s.withEnvelope q l).report e = (s.report e).withEnvelope q l :=
  ⟨fun _ => rfl, fun _ => rfl, fun _ => rfl, fun _ => rfl, fun _ => rfl, fun _ => rfl, fun _ => rfl,
    fun _ => rfl, rfl, rfl, fun _ => rfl⟩

/-- The run of a command works inside the core. -/
theorem commandBody_withEnvelope (s : State) (q : List HostEvent) (l : List Response) (i : Instr) :
    commandBody i (s.withEnvelope q l) = (commandBody i s).withEnvelope q l := by
  cases i with
  | keyexp | aesenc | gfmul | clr | rkrd n => rfl
  | ghash =>
    simp only [commandBody, ghashBody_eq, State.withEnvelope_reads, State.withEnvelope_updates]
  | ctrxor =>
    simp only [commandBody, ctrxorBody_eq, State.withEnvelope_reads, State.withEnvelope_updates]
  | gcmenc =>
    simp only [commandBody, gcmencBody_eq, State.withSchedule, State.withTagOf,
      State.withEnvelope_reads, State.withEnvelope_updates]
  | gcmdec =>
    simp only [commandBody, gcmdecBody_eq, State.withSchedule, State.withTagOf,
      State.withEnvelope_reads, State.withEnvelope_updates]
    split <;> rfl

/-- Settles O60: the tests do not look at the envelope, and the run carries it along. -/
theorem commandsSeeOnlyTheCore : Obligations.CommandsSeeOnlyTheCore := by
  intro i s t q l ht
  obtain ⟨-, -, -, hinbox, hresponses⟩ := exec_surroundings ht
  refine ⟨hinbox, hresponses, (exec_eq i (s.withEnvelope q l)).trans ?_⟩
  have htests := commandTests_withEnvelope s q l i
  rcases exec_cases ht with ⟨e, he, rfl⟩ | ⟨hrun, rfl⟩
  · exact runCommand_refuse _ _ (htests.symm ▸ he)
  · rw [runCommand_run _ _ (htests.symm ▸ hrun), commandBody_withEnvelope]; rfl

/-! ### `STATUS` and the reset values -/

theorem status_flags (s : State) :
    s.status.getLsbD 0 = s.keyv ∧ s.status.getLsbD 1 = s.ivv ∧ s.status.getLsbD 2 = s.rkv := by
  unfold State.status
  cases s.keyv <;> cases s.ivv <;> cases s.rkv <;> decide

theorem status_lt (s : State) : s.status.toNat < 2 ^ 3 := by
  unfold State.status
  cases s.keyv <;> cases s.ivv <;> cases s.rkv <;> decide

/-- Bits 7:3 of `STATUS` read as 0 (spec 10_state.md R30). -/
theorem status_high_bits (s : State) {k : Nat} (hk : 3 ≤ k) : s.status.getLsbD k = false :=
  Nat.testBit_lt_two_pow (Nat.lt_of_lt_of_le (status_lt s) (Nat.pow_le_pow_right (by decide) hk))

/-- Settles O13: the value is below 8 with the flags as its bits, a read answers it, and number 0x01
is not writable. -/
theorem statusShowsTheFlags : Obligations.StatusShowsTheFlags := by
  intro s
  obtain ⟨hkeyv, hivv, hrkv⟩ := status_flags s
  exact ⟨hkeyv, hivv, hrkv, fun k hk => status_high_bits s hk, rfl, fun _ => rfl⟩

/-- A buffer byte that nothing has written holds its free value (assumption log 4). -/
theorem State.bufByte_unwritten {s : State} {sp : Space} (h : s.buf sp = []) (a : Nat) :
    s.bufByte sp a = Config.resetByte s.resets sp a := by
  rw [State.bufByte, h]; rfl

/-- Settles O17: the registers and flags by their reset values, the round keys as those of the cleared
file, and the buffers as unwritten. -/
theorem resetValues : Obligations.ResetValues := by
  intro asize dsize s
  have hunwritten : ∀ sp, s.buf sp = [] := fun sp => by cases sp <;> rfl
  exact ⟨rfl, rfl, rfl, rfl, rfl, rfl, rfl, rfl, rfl, rfl, rfl, rfl, rfl,
    fun r _ => roundKey_replicate_zero r, rfl, rfl,
    fun sp a => State.bufByte_unwritten (hunwritten sp) a⟩

end Sys2Proof.Machine
end

section
/-! PROOFS. Which bytes of the buffers a command reads and writes (spec 20_memory.md R66). -/

namespace Sys2Proof.Machine

/-! ### The bytes a command writes -/

/-- The commands that write text are the three that encrypt or decrypt it. -/
theorem writesText_eq_false {i : Instr} (hctr : i ≠ .ctrxor) (henc : i ≠ .gcmenc)
    (hdec : i ≠ .gcmdec) : writesText i = false := by
  cases i with
  | ctrxor => exact absurd rfl hctr
  | gcmenc => exact absurd rfl henc
  | gcmdec => exact absurd rfl hdec
  | keyexp | aesenc | gfmul | ghash | clr | rkrd n => rfl

/-- A run writes no byte of `OBUF` at or beyond `DLEN`. -/
theorem Run.bufByte_obuf_beyond {i : Instr} {s t : State} (h : Run s i t) {a : Nat}
    (ha : s.dlen.toNat ≤ a) : t.bufByte .obuf a = s.bufByte .obuf a := by
  obtain ⟨v, hv, -, -, hobuf⟩ := h.buffers
  obtain ⟨-, -, hresets, -⟩ := h.surroundings
  have hshort : v.length ≤ a := by
    rcases hv with rfl | ⟨-, hlen⟩
    · exact Nat.zero_le a
    · exact hlen ▸ ha
  have hbuf : t.buf .obuf = (s.memWrite .obuf 0 v).buf .obuf := hobuf
  calc t.bufByte .obuf a
      = (s.memWrite .obuf 0 v).bufByte .obuf a := State.bufByte_congr hbuf hresets a
    _ = s.bufByte .obuf a := by rw [State.bufByte_output, if_neg (Nat.not_lt.2 hshort)]

/-- The run of a command that writes no text leaves `OBUF`. -/
theorem Run.obuf_kept {i : Instr} {s t : State} (h : Run s i t) (hi : writesText i = false) :
    t.obuf = s.obuf := by
  obtain ⟨v, hv, -, -, hobuf⟩ := h.buffers
  rcases hv with rfl | ⟨htext, -⟩
  · exact hobuf
  · rw [hi] at htext; cases htext

/-- Settles O34: a refusal writes no buffer, and a run only its output, which is as long as the
text. -/
theorem onlyTheTextAreaIsWritten : Obligations.OnlyTheTextAreaIsWritten := by
  intro i s t ht
  rcases exec_run ht with ⟨e, -, rfl⟩ | ⟨-, hrun⟩
  · exact ⟨fun _ _ => rfl, fun _ _ _ => rfl⟩
  · exact ⟨fun _ => hrun.bufByte_obuf_beyond,
      fun hctr henc hdec => hrun.obuf_kept (writesText_eq_false hctr henc hdec)⟩

/-! ### The bytes a command reads -/

/-- A state with other contents in the two input buffers. -/
def State.withInputs (s : State) (m n : Memory) : State := { s with abuf := m, ibuf := n }

theorem commandTests_withInputs (s : State) (m n : Memory) (i : Instr) :
    commandTests (s.withInputs m n) i = commandTests s i := by
  cases i <;> rfl

/-- Contents that agree below `ALEN` hold the same associated data. -/
theorem State.withInputs_aad {s : State} {m n : Memory}
    (h : ∀ a < s.alen.toNat, (s.withInputs m n).bufByte .abuf a = s.bufByte .abuf a) :
    (s.withInputs m n).aad = s.aad :=
  State.memRead_congr h

/-- Contents that agree below `DLEN` hold the same text. -/
theorem State.withInputs_text {s : State} {m n : Memory}
    (h : ∀ a < s.dlen.toNat, (s.withInputs m n).bufByte .ibuf a = s.bufByte .ibuf a) :
    (s.withInputs m n).text = s.text :=
  State.memRead_congr h

/-- A run reads the input buffers as the two messages alone, and carries their contents along. -/
theorem commandBody_withInputs {s : State} {m n : Memory} (haad : (s.withInputs m n).aad = s.aad)
    (htext : (s.withInputs m n).text = s.text) (i : Instr) :
    commandBody i (s.withInputs m n) = (commandBody i s).withInputs m n := by
  cases i with
  | keyexp | aesenc | gfmul | clr | rkrd k => rfl
  | ghash =>
    simp only [commandBody, ghashBody_eq, htext]
    rfl
  | ctrxor =>
    simp only [commandBody, ctrxorBody_eq, htext]
    rfl
  | gcmenc =>
    simp only [commandBody, gcmencBody_eq, State.withSchedule, State.withTagOf,
      State.memWrite_obuf_aad, State.setCtr_aad, State.setH_aad, State.setRk_aad, haad, htext]
    rfl
  | gcmdec =>
    simp only [commandBody, gcmdecBody_eq, State.withSchedule, State.withTagOf,
      State.setH_aad, State.setRk_aad, haad, htext]
    rw [apply_ite (State.withInputs · m n)]
    rfl

/-- Settles O35: the tests do not look at the buffers, and the run reads them as two messages that do
not change. -/
theorem bytesBeyondTheLengthsAreNotRead : Obligations.BytesBeyondTheLengthsAreNotRead := by
  intro i s t m n habuf hibuf ht
  have htests := commandTests_withInputs s m n i
  refine (exec_eq i (s.withInputs m n)).trans ?_
  rcases exec_cases ht with ⟨e, he, rfl⟩ | ⟨hrun, rfl⟩
  · exact runCommand_refuse _ _ (htests.symm ▸ he)
  · rw [runCommand_run _ _ (htests.symm ▸ hrun),
      commandBody_withInputs (State.withInputs_aad habuf) (State.withInputs_text hibuf)]
    rfl

end Sys2Proof.Machine
end

section
/-! PROOFS. The command byte: its decoder, its encoder and the illegal bytes (spec 30_encoding.md R80
to R84). -/

namespace Sys2Proof.Machine

/-! ### Decoding and encoding -/

/-- Format N: the high nibble 1 over the round index (spec 30_encoding.md R80). -/
theorem toNat_encode_rkrd (n : BitVec 4) : (encode (.rkrd n)).toNat = 16 + n.toNat := by
  simp only [encode, BitVec.toNat_append]
  rw [← Nat.shiftLeft_add_eq_or_of_lt n.isLt]
  rfl

/-- A byte of format N is none of the eight format Z bytes, so the test on its nibbles decides. -/
theorem decode_of_formatN {b : Byte} (hhigh : b.toNat / 16 = 1) (hlow : b.toNat % 16 ≤ 10) :
    decode b = .ok (.rkrd (BitVec.ofNat 4 (b.toNat % 16))) := by
  have hz : ∀ c : Byte, c.toNat ≤ 8 → b ≠ c := by
    rintro c hc rfl
    omega
  rw [decode, if_neg (hz _ (by decide)), if_neg (hz _ (by decide)), if_neg (hz _ (by decide)),
    if_neg (hz _ (by decide)), if_neg (hz _ (by decide)), if_neg (hz _ (by decide)),
    if_neg (hz _ (by decide)), if_neg (hz _ (by decide)), if_pos ⟨hhigh, hlow⟩]

/-- `Decode(Encode(c)) = c` (spec 30_encoding.md R83). -/
theorem decode_encode {i : Instr} (h : i.WellFormed) : decode (encode i) = .ok i := by
  cases i with
  | keyexp | aesenc | gfmul | ghash | ctrxor | gcmenc | gcmdec | clr => rfl
  | rkrd n =>
    have hn : n.toNat ≤ 10 := of_decide_eq_true h
    have hb := toNat_encode_rkrd n
    have hlow : (encode (.rkrd n)).toNat % 16 = n.toNat := by omega
    rw [decode_of_formatN (by omega) (by omega), hlow, BitVec.ofNat_toNat, BitVec.setWidth_eq]

/-- A byte that passes the nibble test is the encoding of the round index it holds. -/
theorem encode_rkrd_low {b : Byte} (hhigh : b.toNat / 16 = 1) :
    encode (.rkrd (BitVec.ofNat 4 (b.toNat % 16))) = b := by
  apply BitVec.eq_of_toNat_eq
  rw [toNat_encode_rkrd, BitVec.toNat_ofNat]
  omega

/-- A byte encodes a well-formed command, or the decoder refuses it by name. -/
theorem encodes_or_illegal (b : Byte) :
    (∃ i : Instr, i.WellFormed ∧ encode i = b) ∨ decode b = .error (.illegal b) := by
  unfold decode
  split_ifs with h1 h2 h3 h4 h5 h6 h7 h8 hn
  · exact .inl ⟨.keyexp, rfl, h1.symm⟩
  · exact .inl ⟨.aesenc, rfl, h2.symm⟩
  · exact .inl ⟨.gfmul, rfl, h3.symm⟩
  · exact .inl ⟨.ghash, rfl, h4.symm⟩
  · exact .inl ⟨.ctrxor, rfl, h5.symm⟩
  · exact .inl ⟨.gcmenc, rfl, h6.symm⟩
  · exact .inl ⟨.gcmdec, rfl, h7.symm⟩
  · exact .inl ⟨.clr, rfl, h8.symm⟩
  · obtain ⟨hhigh, hlow⟩ := hn
    refine .inl ⟨.rkrd _, decide_eq_true ?_, encode_rkrd_low hhigh⟩
    rw [BitVec.toNat_ofNat]
    omega
  · exact .inr rfl

/-- `Encode(Decode(b)) = b` for every legal byte (spec 30_encoding.md R83). -/
theorem encode_of_decode {b : Byte} {i : Instr} (h : decode b = .ok i) :
    i.WellFormed ∧ encode i = b := by
  rcases encodes_or_illegal b with ⟨j, hj, rfl⟩ | hbad
  · have hij : j = i := Except.ok.inj ((decode_encode hj).symm.trans h)
    exact hij ▸ ⟨hj, rfl⟩
  · rw [hbad] at h
    cases h

/-- Settles O2: each direction is one of the two inverse laws. -/
theorem decodeAndEncodeAgree : Obligations.DecodeAndEncodeAgree :=
  ⟨fun _ => decode_encode, fun _ _ => encode_of_decode⟩

/-! ### The illegal bytes -/

/-- The nineteen legal bytes: 0x01 to 0x08 and 0x10 to 0x1A (spec 30_encoding.md R82). -/
theorem encode_range {i : Instr} (h : i.WellFormed) :
    (1 ≤ (encode i).toNat ∧ (encode i).toNat ≤ 8) ∨
      (16 ≤ (encode i).toNat ∧ (encode i).toNat ≤ 26) := by
  cases i with
  | keyexp | aesenc | gfmul | ghash | ctrxor | gcmenc | gcmdec | clr => exact .inl (by decide)
  | rkrd n =>
    have hn : n.toNat ≤ 10 := of_decide_eq_true h
    rw [toNat_encode_rkrd]
    omega

/-- The decoder refuses the 237 bytes that no row of the opcode map lists (spec 30_encoding.md R84). -/
theorem decode_illegal {b : Byte}
    (h : b = 0x00#8 ∨ (0x09#8 ≤ b ∧ b ≤ 0x0F#8) ∨ (0x1B#8 ≤ b ∧ b ≤ 0x1F#8) ∨ 0x20#8 ≤ b) :
    decode b = .error (.illegal b) := by
  rcases encodes_or_illegal b with ⟨i, hi, rfl⟩ | hbad
  · have hrange := encode_range hi
    bv_omega
  · exact hbad

/-- A `CMD` write of a byte that is no command reports `ERR_ILLEGAL` (spec 40_host_transactions.md
R105). -/
theorem transact_wrCmd_of_error {b : Byte} {e : DecodeError} (h : decode b = .error e) (s : State) :
    transact (wrCmd b) s = .next ((s.report .illegal).respond .ok) := by
  rw [transact_wrCmd, writeCmd, h, State.refuse_eq]

/-- Settles O3: no encoding lies in the illegal ranges, and the report and the response are the two
fields that change. -/
theorem illegalByteOnlyReports : Obligations.IllegalByteOnlyReports :=
  fun s _ hb => ⟨decode_illegal hb, transact_wrCmd_of_error (decode_illegal hb) s⟩

/-- Settles O1: the legal bytes are encodings, and the neighbours of the legal ranges lie in the
illegal ones. -/
theorem decodeReadsTheOpcodeMap : Obligations.DecodeReadsTheOpcodeMap :=
  ⟨decode_encode (i := .keyexp) rfl, decode_encode (i := .aesenc) rfl,
    decode_encode (i := .gfmul) rfl, decode_encode (i := .ghash) rfl,
    decode_encode (i := .ctrxor) rfl, decode_encode (i := .gcmenc) rfl,
    decode_encode (i := .gcmdec) rfl, decode_encode (i := .clr) rfl,
    decode_encode (i := .rkrd 0#4) rfl, decode_encode (i := .rkrd 10#4) rfl,
    decode_illegal (by decide), decode_illegal (by decide), decode_illegal (by decide),
    decode_illegal (by decide), decode_illegal (by decide)⟩

end Sys2Proof.Machine
end

section
/-! PROOFS. The host's transactions: what each of them does to the state and how it is answered (spec
40_host_transactions.md). -/

namespace Sys2Proof.Machine

/-! ### Answering a transaction -/

/-- Every command ends (spec 70_reset_and_hazards.md R235). -/
theorem exec_ends (i : Instr) (s : State) : ∃ t, exec i s = .next t :=
  exec_eq i s ▸ runCommand_ends _ _ s

/-- A `CMD` write of a byte that is a command runs it (spec 40_host_transactions.md R105). -/
theorem transact_wrCmd_of_ok {b : Byte} {i : Instr} (h : decode b = .ok i) (s : State) :
    transact (wrCmd b) s = acceptCommand (exec i s) := by
  rw [transact_wrCmd, writeCmd, h]

/-- A `CMD` write has its effect and is answered `Ok`, whether the byte is a command or not (spec
40_host_transactions.md R105). -/
theorem transact_wrCmd_answers (b : Byte) (s : State) :
    ∃ u, Effect s (wrCmd b) u ∧ transact (wrCmd b) s = .next (u.respond .ok) := by
  cases hb : decode b with
  | ok i =>
    obtain ⟨u, hu⟩ := exec_ends i s
    exact ⟨u, .command hb hu, by rw [transact_wrCmd_of_ok hb, hu]; rfl⟩
  | error e => exact ⟨_, .illegal b, transact_wrCmd_of_error hb s⟩

/-- A number from 0x0B on names no register (spec 30_encoding.md R85). -/
theorem ofNumber_eq_none {r : Byte} (h : 0x0B#8 ≤ r) : Reg.ofNumber r = none := by
  revert r; decide

/-- A read of a named register answers its value (spec 40_host_transactions.md R107). -/
theorem transact_regRead {r : Byte} {g : Reg} (h : Reg.ofNumber r = some g) (s : State) :
    transact (.regRead r) s = .next (s.respond (.value g.width (s.regValue g))) := by
  rw [transact, readReg, h]

/-- A read of a number that names no register is malformed (spec 40_host_transactions.md R107). -/
theorem transact_regRead_none {r : Byte} (h : Reg.ofNumber r = none) (s : State) :
    transact (.regRead r) s = .next (s.respond .busError) := by
  rw [transact, readReg, h, busError]

/-- A write to a read-only register or to a number that names none is malformed (spec
40_host_transactions.md R103). -/
theorem transact_regWrite_readOnly {r : Byte} (h : r = 0x01#8 ∨ r = 0x02#8 ∨ 0x0A#8 ≤ r)
    (v : BitVec (regWidth r)) (s : State) :
    transact (.regWrite r v) s = .next (s.respond .busError) := by
  have hr : r = 0x01#8 ∨ r = 0x02#8 ∨ r = 0x0A#8 ∨ 0x0B#8 ≤ r := by bv_omega
  rcases hr with rfl | rfl | rfl | hr
  · exact transact_regWrite (g := .status) rfl v s
  · exact transact_regWrite (g := .err) rfl v s
  · exact transact_regWrite (g := .res) rfl v s
  · exact transact_regWrite_none (ofNumber_eq_none hr) v s

/-- A write of a byte that lies inside a buffer (spec 40_host_transactions.md R104). -/
theorem transact_bufWrite {n : Byte} {a : Length} {s : State} {sp : Space}
    (h : s.target n a = some sp) (b : Byte) :
    transact (.bufWrite n a b) s = .next ((s.memWrite sp a.toNat [b]).respond .ok) := by
  rw [transact, writeBuf, h]

/-- A write outside the buffers is malformed (spec 40_host_transactions.md R104). -/
theorem transact_bufWrite_none {n : Byte} {a : Length} {s : State} (h : s.target n a = none)
    (b : Byte) : transact (.bufWrite n a b) s = .next (s.respond .busError) := by
  rw [transact, writeBuf, h, busError]

/-- A read of a byte that lies inside a buffer (spec 40_host_transactions.md R104). -/
theorem transact_bufRead {n : Byte} {a : Length} {s : State} {sp : Space}
    (h : s.target n a = some sp) :
    transact (.bufRead n a) s = .next (s.respond (.value 8 (s.bufByte sp a.toNat))) := by
  rw [transact, readBuf, h]

/-- A read outside the buffers is malformed (spec 40_host_transactions.md R104). -/
theorem transact_bufRead_none {n : Byte} {a : Length} {s : State} (h : s.target n a = none) :
    transact (.bufRead n a) s = .next (s.respond .busError) := by
  rw [transact, readBuf, h, busError]

/-- Every transaction is answered with a next state (spec 70_reset_and_hazards.md R235). -/
theorem transact_ends (x : Transaction) (s : State) : ∃ t, transact x s = .next t := by
  rcases transaction_cases x with ⟨b, rfl⟩ | ⟨v, rfl⟩ | ⟨v, rfl⟩ | ⟨v, rfl⟩ | ⟨v, rfl⟩ | ⟨v, rfl⟩ |
    ⟨v, rfl⟩ | ⟨v, rfl⟩ | ⟨r, v, -, -, hbus⟩ | ⟨r, rfl⟩ | ⟨n, a, b, rfl⟩ | ⟨n, a, rfl⟩
  · obtain ⟨u, -, hu⟩ := transact_wrCmd_answers b s
    exact ⟨_, hu⟩
  · exact ⟨_, transact_wrKey v s⟩
  · exact ⟨_, transact_wrIv v s⟩
  · exact ⟨_, transact_wrAlen v s⟩
  · exact ⟨_, transact_wrDlen v s⟩
  · exact ⟨_, transact_wrTag v s⟩
  · exact ⟨_, transact_wrOpa v s⟩
  · exact ⟨_, transact_wrOpb v s⟩
  · exact ⟨_, hbus s⟩
  · cases hr : Reg.ofNumber r with
    | some g => exact ⟨_, transact_regRead hr s⟩
    | none => exact ⟨_, transact_regRead_none hr s⟩
  · cases ht : s.target n a with
    | some sp => exact ⟨_, transact_bufWrite ht b⟩
    | none => exact ⟨_, transact_bufWrite_none ht b⟩
  · cases ht : s.target n a with
    | some sp => exact ⟨_, transact_bufRead ht⟩
    | none => exact ⟨_, transact_bufRead_none ht⟩

/-- The effect of a transaction leaves the host's queue and the responses (assumption log 1, 2). -/
theorem Effect.envelope {s u : State} {x : Transaction} (hu : Effect s x u) :
    u.inbox = s.inbox ∧ u.responses = s.responses := by
  cases hu with
  | command _ hexec =>
    obtain ⟨-, -, -, hinbox, hresponses⟩ := exec_surroundings hexec
    exact ⟨hinbox, hresponses⟩
  | byte => simp
  | unchanged | key | iv | alen | dlen | tag | opa | opb | illegal => exact ⟨rfl, rfl⟩

/-- Settles O6: the step takes the event off the queue, and the transaction's effect leaves both lists
to the one response that follows it. -/
theorem everyTransactionGetsOneResponse : Obligations.EveryTransactionGetsOneResponse := by
  intro s x rest hq
  obtain ⟨t, ht⟩ := transact_ends x (s.setInbox rest)
  obtain ⟨u, r, hu, rfl⟩ := transact_effect ht
  obtain ⟨hinbox, hresponses⟩ := hu.envelope
  exact ⟨u.respond r, r, (step_transaction hq).trans ht, hinbox, congrArg (· ++ [r]) hresponses⟩

/-- Settles O5. -/
theorem idleStepChangesNothing : Obligations.IdleStepChangesNothing :=
  fun _ => step_idle

/-! ### Writes to `CMD` -/

/-- Settles O4: the step is the write's transaction, and that is the command's outcome with the
response added. -/
theorem stepRunsTheWrittenCommand : Obligations.StepRunsTheWrittenCommand := by
  intro s b i rest hq hb
  exact (step_transaction hq).trans (transact_wrCmd_of_ok hb _)

/-- Settles O8: the effect of the write leaves the responses, and the one it adds is `Ok`. -/
theorem cmdWriteIsAnsweredOk : Obligations.CmdWriteIsAnsweredOk := by
  intro s b
  obtain ⟨u, hu, ht⟩ := transact_wrCmd_answers b s
  obtain ⟨-, hresponses⟩ := hu.envelope
  exact ⟨_, ht, congrArg (· ++ [Response.ok]) hresponses⟩

/-- `CLR` has no tests (spec 40_host_transactions.md R106). -/
theorem exec_clr (s : State) : exec .clr s = .next s.releaseWorking.clearRegisters :=
  (exec_eq .clr s).trans (runCommand_run _ s firstFailure_nil)

/-- Settles O27: what `CLR` changes besides the cleared registers are the released working
registers. -/
theorem clrRestoresResetValues : Obligations.ClrRestoresResetValues :=
  ⟨decode_encode (i := .clr) rfl, fun s => ⟨_, exec_clr s, rfl⟩⟩

/-! ### The other registers -/

/-- Settles O9. -/
theorem keyWriteInvalidatesSchedule : Obligations.KeyWriteInvalidatesSchedule :=
  fun s v => transact_wrKey v s

/-- Settles O10. -/
theorem ivWriteSetsIvv : Obligations.IvWriteSetsIvv :=
  fun s v => transact_wrIv v s

/-- Settles O11, register by register. -/
theorem operandWritesStore : Obligations.OperandWritesStore :=
  fun s => ⟨fun v => transact_wrAlen v s, fun v => transact_wrDlen v s, fun v => transact_wrTag v s,
    fun v => transact_wrOpa v s, fun v => transact_wrOpb v s,
    fun _ v hr => transact_regWrite_readOnly hr v s⟩

/-- `STATUS` as a sum of the three flags (spec 10_state.md R30). -/
theorem status_eq_sum (s : State) :
    s.status = (BitVec.ofBool s.keyv).setWidth 8 + 2#8 * (BitVec.ofBool s.ivv).setWidth 8 +
      4#8 * (BitVec.ofBool s.rkv).setWidth 8 := by
  have hflag : ∀ f : Bool, flagBit f = (BitVec.ofBool f).setWidth 8 := by decide
  simp only [State.status, hflag]

/-- Settles O12, register by register; `STATUS` is the sum of its flags. -/
theorem registerReadsReturnValues : Obligations.RegisterReadsReturnValues := by
  intro s answers
  have hstatus : answers 0x01#8 (.value 8 s.status) := transact_regRead (g := .status) rfl s
  rw [status_eq_sum] at hstatus
  exact ⟨transact_regRead (g := .cmd) rfl s, hstatus, transact_regRead (g := .err) rfl s,
    transact_regRead (g := .key) rfl s, transact_regRead (g := .iv) rfl s,
    transact_regRead (g := .alen) rfl s, transact_regRead (g := .dlen) rfl s,
    transact_regRead (g := .tag) rfl s, transact_regRead (g := .opa) rfl s,
    transact_regRead (g := .opb) rfl s, transact_regRead (g := .res) rfl s,
    fun r hr => transact_regRead_none (ofNumber_eq_none hr) s⟩

/-! ### The buffers -/

/-- A number names the buffer that has it (spec 20_memory.md R60). -/
theorem space_ofNumber_eq_some {n : Byte} {sp : Space} :
    Space.ofNumber n = some sp ↔ sp.number = n := by
  cases sp <;> revert n <;> decide

/-- An access reaches the buffer of its number where the address lies below the size (spec
40_host_transactions.md R104). -/
theorem target_of_number {n : Byte} {sp : Space} {a : Length} {s : State} (hn : sp.number = n)
    (ha : a.toNat < s.bufSize sp) : s.target n a = some sp :=
  target_eq_some.2 ⟨space_ofNumber_eq_some.2 hn, ha⟩

/-- An access reaches nothing where no buffer of its number is larger than the address (spec
40_host_transactions.md R104). -/
theorem target_none_of_number {n : Byte} {a : Length} {s : State}
    (h : ∀ sp : Space, sp.number = n → s.bufSize sp ≤ a.toNat) : s.target n a = none := by
  refine Option.eq_none_iff_forall_ne_some.2 fun sp hsp => ?_
  obtain ⟨hn, ha⟩ := target_eq_some.1 hsp
  exact absurd (h sp (space_ofNumber_eq_some.1 hn)) (Nat.not_le.2 ha)

/-- The bytes of a buffer after one of them is written. -/
theorem State.bufByte_writeByte (s : State) (sp : Space) (a : Nat) (b : Byte) (x : Nat) :
    (s.memWrite sp a [b]).bufByte sp x = if x = a then b else s.bufByte sp x := by
  rw [State.bufByte_memWrite]
  rcases Nat.lt_trichotomy x a with hx | rfl | hx
  · rw [if_neg (by omega), if_neg (by omega)]
  · simp
  · rw [if_pos ⟨rfl, by omega⟩, if_neg (by omega), List.getElem?_eq_none (by simp; omega),
      Option.getD_none]

/-- A write to a buffer changes no field but the three buffers (spec 40_host_transactions.md R104). -/
theorem State.memWrite_frame (s : State) (sp : Space) (a : Nat) (v : List Byte) :
    s.memWrite sp a v =
      { s with
        abuf := (s.memWrite sp a v).abuf, ibuf := (s.memWrite sp a v).ibuf
        obuf := (s.memWrite sp a v).obuf } := by
  cases sp <;> rfl

/-- Settles O14: the number and the address decide what the access reaches, and a write there is one
byte of one buffer. -/
theorem bufferAccessMovesOneByte : Obligations.BufferAccessMovesOneByte := by
  intro s n a b
  refine ⟨fun sp hn ha => ?_, fun hout => ?_⟩
  · have htarget := target_of_number hn ha
    exact ⟨transact_bufRead htarget, _, transact_bufWrite htarget b,
      congrArg (·.respond .ok) (s.memWrite_frame sp a.toNat [b]),
      fun _ hsp => s.memWrite_buf_other _ _ hsp, s.bufByte_writeByte sp a.toNat b⟩
  · have htarget := target_none_of_number hout
    exact ⟨transact_bufRead_none htarget, transact_bufWrite_none htarget b⟩

/-! ### `OBUF` under a command -/

/-- A state with other contents of `OBUF`. -/
def State.withOutput (s : State) (m : Memory) : State := { s with obuf := m }

/-- What the run of a command writes at the start of `OBUF` (spec 45_counter_mode.md R185, 46_gcm.md
R195, R196). -/
def outputText (s : State) : Instr → List Byte
  | .ctrxor => ctrXor s.rk s.iv s.text
  | .gcmenc => ctrXor (keyExpand s.key) s.iv s.text
  | .gcmdec =>
    if gcmTag (keyExpand s.key) s.iv s.aad s.text = s.tag then ctrXor (keyExpand s.key) s.iv s.text
    else []
  | .keyexp | .rkrd _ | .aesenc | .gfmul | .ghash | .clr => []

theorem commandTests_withOutput (s : State) (m : Memory) (i : Instr) :
    commandTests (s.withOutput m) i = commandTests s i := by
  cases i <;> rfl

/-- A run carries the contents of `OBUF` along and writes its output over them (spec
40_host_transactions.md R104). -/
theorem commandBody_withOutput (s : State) (m : Memory) (i : Instr) :
    commandBody i (s.withOutput m) =
      (commandBody i s).withOutput (m.writeBytes 0 (outputText s i)) := by
  cases i with
  | keyexp | aesenc | gfmul | ghash | clr | rkrd n | ctrxor => rfl
  | gcmenc =>
    simp only [commandBody, gcmencBody_eq]
    rfl
  | gcmdec =>
    simp only [commandBody, gcmdecBody_eq, outputText]
    by_cases htag : gcmTag (keyExpand s.key) s.iv s.aad s.text = s.tag
    · rw [if_pos htag, if_pos htag]
      exact if_pos htag
    · rw [if_neg htag, if_neg htag]
      exact if_neg htag

/-- The output of a run is the text of a command that encrypts or decrypts it and succeeds, and else
nothing (spec 20_memory.md R66, 46_gcm.md R196). -/
theorem length_outputText (s : State) (i : Instr) :
    (outputText s i).length =
      if writesText i ∧ (commandBody i s).err = 0x00#8 then s.dlen.toNat else 0 := by
  cases i with
  | keyexp | aesenc | gfmul | ghash | clr | rkrd n => rfl
  | ctrxor | gcmenc => exact (length_ctrXor _ _ _).trans (s.length_text)
  | gcmdec =>
    simp only [commandBody, gcmdecBody_eq, outputText]
    by_cases htag : gcmTag (keyExpand s.key) s.iv s.aad s.text = s.tag
    · simp [htag, writesText]
    · simp [htag]

/-- What a run writes does not depend on what `OBUF` held. -/
theorem outputText_withOutput (s : State) (m : Memory) (i : Instr) :
    outputText (s.withOutput m) i = outputText s i := by
  cases i <;> rfl

/-- An address is below the output where the claims say that a command writes (spec 20_memory.md
R66). -/
theorem lt_length_outputText_iff {s : State} {i : Instr} {a : Nat} :
    a < (outputText s i).length ↔
      writesText i ∧ (commandBody i s).err = 0x00#8 ∧ a < s.dlen.toNat := by
  rw [length_outputText, ← and_assoc]
  split <;> simp_all

/-- The bytes of `OBUF` after a run: its output, and beyond it what was there (spec 20_memory.md
R66). -/
theorem bufByte_obuf_commandBody (s : State) (i : Instr) (a : Nat) :
    (commandBody i s).bufByte .obuf a =
      if a < (outputText s i).length then (outputText s i).getD a 0 else s.bufByte .obuf a := by
  have hobuf : (commandBody i s).buf .obuf = (s.memWrite .obuf 0 (outputText s i)).buf .obuf :=
    congrArg (·.obuf) (commandBody_withOutput s s.obuf i)
  obtain ⟨-, -, hresets, -⟩ := (commandBody_run i s).surroundings
  exact (State.bufByte_congr hobuf hresets a).trans (State.bufByte_output s _ a)

/-- Settles O36: the tests do not look at `OBUF`, a refusal leaves it, and a run writes the same output
over whatever it held. -/
theorem outputBufferIsNotRead : Obligations.OutputBufferIsNotRead := by
  intro i s t m ht
  have htests := commandTests_withOutput s m i
  rcases exec_cases ht with ⟨e, he, rfl⟩ | ⟨hrun, rfl⟩
  · obtain ⟨hok, -⟩ := refusal_code_ne he
    refine ⟨(s.withOutput m).report e,
      (exec_eq i _).trans (runCommand_refuse _ _ (htests.symm ▸ he)), rfl, fun a => ?_⟩
    exact (if_neg fun ⟨_, herr, _⟩ => hok herr).symm
  · refine ⟨commandBody i (s.withOutput m),
      (exec_eq i _).trans (runCommand_run _ _ (htests.symm ▸ hrun)), ?_, fun a => ?_⟩
    · rw [commandBody_withOutput]
      rfl
    · rw [bufByte_obuf_commandBody, outputText_withOutput, bufByte_obuf_commandBody]
      by_cases ha : a < (outputText s i).length
      · rw [if_pos ha, if_pos (lt_length_outputText_iff.1 ha), if_pos ha]
      · exact (if_neg ha).trans (if_neg (mt lt_length_outputText_iff.2 ha)).symm

end Sys2Proof.Machine
end

section
/-! PROOFS. The key schedule: the words of the expansion, the arithmetic of GF(2^8) behind the S-box,
and the commands `KEYEXP` and `RKRD` (spec 41_key_schedule.md). -/

namespace Sys2Proof.Machine

/-! ### The words of the expansion -/

/-- `w[i]` of the first `n + 4` words of a key (spec 41_key_schedule.md R126). -/
def scheduleWord (k : Block) (n i : Nat) : Word :=
  (scheduleWords k n).reverse.getD i 0

/-- Counted from the newest word back, as `scheduleStep` reads them. -/
theorem getD_scheduleWords (k : Block) {n i : Nat} (hi : i < n + 4) :
    (scheduleWords k n).getD (n + 3 - i) 0 = scheduleWord k n i := by
  have hlen : (scheduleWords k n).length = n + 4 := length_scheduleWords k n
  rw [scheduleWord, List.getD_reverse i (hlen ▸ hi), hlen]
  rfl

/-- A later word leaves the words before it. -/
theorem scheduleWord_succ_of_lt (k : Block) {n i : Nat} (hi : i < n + 4) :
    scheduleWord k (n + 1) i = scheduleWord k n i := by
  rw [scheduleWord, scheduleWords_succ, scheduleStep, List.reverse_cons]
  exact List.getD_append _ _ _ _ (by simpa using hi)

/-- The word a step adds (spec 41_key_schedule.md R126). -/
theorem scheduleWord_succ_last (k : Block) (n : Nat) :
    scheduleWord k (n + 1) (n + 4) =
      scheduleWord k n n ^^^ scheduleTemp (n + 4) (scheduleWord k n (n + 3)) := by
  have hnew := getD_scheduleWords k (n := n + 1) (i := n + 4) (by omega)
  have hback := getD_scheduleWords k (n := n) (i := n) (by omega)
  have hlast := getD_scheduleWords k (n := n) (i := n + 3) (by omega)
  rw [Nat.add_sub_cancel_left] at hback
  rw [Nat.sub_self] at hnew hlast
  rw [← hnew, ← hback, ← hlast]
  rfl

/-- Every word after the key's own four follows the recurrence (spec 41_key_schedule.md R126). -/
theorem scheduleWord_recurrence (k : Block) (n : Nat) {i : Nat} (h4 : 4 ≤ i) (hi : i < n + 4) :
    scheduleWord k n i =
      scheduleWord k n (i - 4) ^^^ scheduleTemp i (scheduleWord k n (i - 1)) := by
  induction n with
  | zero => omega
  | succ n ih =>
    rw [scheduleWord_succ_of_lt k (i := i - 4) (by omega),
      scheduleWord_succ_of_lt k (i := i - 1) (by omega)]
    rcases Nat.lt_or_eq_of_le (Nat.lt_succ_iff.1 hi) with hlt | rfl
    · rw [scheduleWord_succ_of_lt k (by omega)]
      exact ih (by omega)
    · exact scheduleWord_succ_last k n

/-- The first four words are the key, cut in order (spec 41_key_schedule.md R126). -/
theorem scheduleWord_key (k : Block) (n : Nat) {i : Nat} (hi : i < 4) :
    scheduleWord k n i = k.extractLsb' (32 * (3 - i)) 32 := by
  induction n with
  | zero => interval_cases i <;> rfl
  | succ n ih => rw [scheduleWord_succ_of_lt k (by omega), ih]

/-! ### Words and round keys -/

theorem roundKey_scheduleOfWords (ws : List Word) {r : Nat} (hr : r < 11) :
    roundKey (scheduleOfWords ws) r = roundKeyOfWords ws r := by
  interval_cases r <;> rfl

/-- A word at the end of a string leaves the words before it where they are. -/
theorem extractLsb'_append_word {n : Nat} (x : BitVec n) (w : Word) (p : Nat) :
    (x ++ w).extractLsb' (p + 32) 32 = x.extractLsb' p 32 :=
  BitVec.extractLsb'_append_eq_of_le (Nat.le_add_left 32 p)

/-- Word `j` of a round key (spec 41_key_schedule.md R126). -/
theorem extractLsb'_roundKeyOfWords (ws : List Word) (r : Nat) {j : Nat} (hj : j < 4) :
    (roundKeyOfWords ws r).extractLsb' (32 * (3 - j)) 32 = ws.getD (4 * r + j) 0 := by
  unfold roundKeyOfWords
  interval_cases j
  · exact ((extractLsb'_append_word _ _ 64).trans (extractLsb'_append_word _ _ 32)).trans
      BitVec.extractLsb'_append_eq_left
  · exact ((extractLsb'_append_word _ _ 32).trans (extractLsb'_append_word _ _ 0)).trans
      BitVec.extractLsb'_append_eq_right
  · exact (extractLsb'_append_word _ _ 0).trans BitVec.extractLsb'_append_eq_right
  · exact BitVec.extractLsb'_append_eq_right

theorem wordOf_scheduleOfWords (ws : List Word) {i : Nat} (hi : i < 44) :
    wordOf (scheduleOfWords ws) i = ws.getD i 0 := by
  rw [wordOf, roundKey_scheduleOfWords ws (by omega),
    extractLsb'_roundKeyOfWords ws (i / 4) (Nat.mod_lt i (by decide)), Nat.div_add_mod]

theorem wordOf_keyExpand (k : Block) {i : Nat} (hi : i < 44) :
    wordOf (keyExpand k) i = scheduleWord k 40 i :=
  wordOf_scheduleOfWords _ hi

/-- A block is its four words in order (spec 00_scope.md R9). -/
theorem block_eq_words (b : Block) :
    b.extractLsb' 96 32 ++ b.extractLsb' 64 32 ++ b.extractLsb' 32 32 ++ b.extractLsb' 0 32 = b := by
  have hhalf : b.extractLsb' 96 32 ++ b.extractLsb' 64 32 = b.extractLsb' 64 64 :=
    BitVec.extractLsb'_append_extractLsb'_eq_extractLsb' rfl
  have htop : b.extractLsb' 64 64 ++ b.extractLsb' 32 32 = b.extractLsb' 32 96 :=
    BitVec.extractLsb'_append_extractLsb'_eq_extractLsb' rfl
  rw [hhalf, htop]
  exact BitVec.extractLsb'_append_extractLsb'

/-- Round key 0 is the key (spec 41_key_schedule.md R126). -/
theorem roundKey_keyExpand_zero (k : Block) : roundKey (keyExpand k) 0 = k := by
  have hwords : roundKey (keyExpand k) 0 =
      scheduleWord k 40 0 ++ scheduleWord k 40 1 ++ scheduleWord k 40 2 ++ scheduleWord k 40 3 :=
    roundKey_scheduleOfWords _ (by decide)
  rw [hwords, scheduleWord_key k 40 (by decide), scheduleWord_key k 40 (by decide),
    scheduleWord_key k 40 (by decide), scheduleWord_key k 40 (by decide)]
  exact block_eq_words k

/-- Settles O44: the words of the schedule are those of the expansion, and these follow the recurrence
by induction on how many are computed. -/
theorem keyExpandFollowsTheWordRecurrence : Obligations.KeyExpandFollowsTheWordRecurrence := by
  refine fun k => ⟨roundKey_keyExpand_zero k, fun i h4 hi => ?_⟩
  rw [wordOf_keyExpand k hi, wordOf_keyExpand k (by omega), wordOf_keyExpand k (by omega)]
  exact scheduleWord_recurrence k 40 h4 hi

/-! ### Arithmetic in GF(2^8) -/

/-- Doubling is a shift, with the feedback where the top bit falls out (spec 41_key_schedule.md
R123). -/
theorem xtime_eq (a : Byte) : xtime a = (a <<< 1) ^^^ (if a.msb then 0x1B#8 else 0#8) := by
  have htop : (0x80#8 ≤ a) ↔ a.msb = true := by
    rw [BitVec.msb_eq_decide, decide_eq_true_iff]
    rfl
  unfold xtime
  by_cases h : a.msb = true
  · rw [if_pos (htop.2 h), if_pos h]
  · rw [if_neg (mt htop.1 h), if_neg h, BitVec.xor_zero]

/-- Doubling is additive. -/
theorem xtime_xor (a b : Byte) : xtime (a ^^^ b) = xtime a ^^^ xtime b := by
  have hfeedback : ∀ p q : Bool, (if (p ^^ q) then 0x1B#8 else 0#8) =
      (if p then 0x1B#8 else 0#8) ^^^ (if q then 0x1B#8 else 0#8) := by
    decide
  simp only [xtime_eq, BitVec.shiftLeft_xor_distrib, BitVec.msb_xor, hfeedback]
  ac_rfl

/-- The xor of `f k` over the `k` in `l` with bit `k` of `b` set, added to `acc`. -/
def xorAtBits (b : Byte) (f : Nat → Byte) (l : List Nat) (acc : Byte) : Byte :=
  l.foldl (fun acc k => if b.getLsbD k then acc ^^^ f k else acc) acc

theorem gf8Mul_eq_xorAtBits (a b : Byte) :
    gf8Mul a b = xorAtBits b (xtimePow · a) (List.range 8) 0 := rfl

theorem xorAtBits_cons (b : Byte) (f : Nat → Byte) (k : Nat) (l : List Nat) (acc : Byte) :
    xorAtBits b f (k :: l) acc = xorAtBits b f l (if b.getLsbD k then acc ^^^ f k else acc) := rfl

/-- An additive map may be applied to every term. -/
theorem map_xorAtBits {g : Byte → Byte} (hadd : ∀ x y, g (x ^^^ y) = g x ^^^ g y) (b : Byte)
    (f : Nat → Byte) (l : List Nat) (acc : Byte) :
    g (xorAtBits b f l acc) = xorAtBits b (fun k => g (f k)) l (g acc) := by
  induction l generalizing acc with
  | nil => rfl
  | cons k l ih => rw [xorAtBits_cons, xorAtBits_cons, ih, apply_ite g, hadd]

/-- Sums over the same bits are added term by term. -/
theorem xorAtBits_xor (b : Byte) (f g : Nat → Byte) (l : List Nat) (u v : Byte) :
    xorAtBits b (fun k => f k ^^^ g k) l (u ^^^ v) = xorAtBits b f l u ^^^ xorAtBits b g l v := by
  induction l generalizing u v with
  | nil => rfl
  | cons k l ih =>
    have hterm : u ^^^ v ^^^ (f k ^^^ g k) = (u ^^^ f k) ^^^ (v ^^^ g k) := by ac_rfl
    simp only [xorAtBits_cons, ← ih, hterm]
    split <;> rfl

/-- What an additive map that commutes with doubling does to a product: `Gf8Mul(_, b)` is a polynomial
in doubling (spec 41_key_schedule.md R123). -/
theorem gf8Mul_map {g : Byte → Byte} (hadd : ∀ x y, g (x ^^^ y) = g x ^^^ g y)
    (hxtime : ∀ x, g (xtime x) = xtime (g x)) (a b : Byte) : gf8Mul (g a) b = g (gf8Mul a b) := by
  have hzero : g 0 = 0 := by simpa using hadd 0 0
  have hpow : ∀ k, g (xtimePow k a) = xtimePow k (g a) := by
    intro k
    induction k with
    | zero => rfl
    | succ k ih => rw [xtimePow, hxtime, ih, xtimePow]
  simp only [gf8Mul_eq_xorAtBits, map_xorAtBits hadd, hpow, hzero]

theorem xtimePow_xor (k : Nat) (x y : Byte) :
    xtimePow k (x ^^^ y) = xtimePow k x ^^^ xtimePow k y := by
  induction k with
  | zero => rfl
  | succ k ih => rw [xtimePow, ih, xtime_xor, xtimePow, xtimePow]

/-- Multiplication is additive in its first factor. -/
theorem gf8Mul_xor (x y b : Byte) : gf8Mul (x ^^^ y) b = gf8Mul x b ^^^ gf8Mul y b := by
  simp only [gf8Mul_eq_xorAtBits, xtimePow_xor]
  exact xorAtBits_xor b _ _ _ 0 0

/-- Multiplication commutes with doubling. -/
theorem gf8Mul_xtime (a b : Byte) : gf8Mul (xtime a) b = xtime (gf8Mul a b) :=
  gf8Mul_map xtime_xor (fun _ => rfl) a b

/-- Two factors may be applied in either order: both are polynomials in doubling. -/
theorem gf8Mul_right_comm (a b c : Byte) :
    gf8Mul (gf8Mul a b) c = gf8Mul (gf8Mul a c) b :=
  gf8Mul_map (g := (gf8Mul · b)) (fun x y => gf8Mul_xor x y b) (fun x => gf8Mul_xtime x b) a c

theorem one_gf8Mul (b : Byte) : gf8Mul 0x01#8 b = b := by
  revert b; decide +kernel

theorem gf8Mul_zero (a : Byte) : gf8Mul a 0 = 0 := rfl

theorem gf8Mul_comm (a b : Byte) : gf8Mul a b = gf8Mul b a := by
  have h := gf8Mul_right_comm 0x01#8 a b
  rwa [one_gf8Mul, one_gf8Mul] at h

/-- A byte has at most one inverse (spec 41_key_schedule.md R122). -/
theorem gf8Mul_inverse_unique {a b c : Byte} (hb : gf8Mul a b = 0x01#8) (hc : gf8Mul a c = 0x01#8) :
    c = b := by
  have h := gf8Mul_right_comm a b c
  rwa [hb, hc, one_gf8Mul, one_gf8Mul] at h

/-! ### The S-box -/

/-- The inverse of `Aff`: the S-box table holds `Aff(Inv(a))`, so this finds `Inv(a)` in it. -/
def affineInv (c : Byte) : Byte :=
  c.rotateLeft 1 ^^^ c.rotateLeft 3 ^^^ c.rotateLeft 6 ^^^ 0x05#8

theorem affine_affineInv (c : Byte) : affine (affineInv c) = c := by
  revert c; decide +kernel

/-- `Inv(a)` as the table has it (spec 41_key_schedule.md R122). -/
def sboxInverse (a : Byte) : Byte :=
  affineInv (sbox a)

theorem sbox_eq_affine (a : Byte) : sbox a = affine (sboxInverse a) :=
  (affine_affineInv (sbox a)).symm

theorem sboxInverse_zero : sboxInverse 0 = 0 := by decide

theorem gf8Mul_sboxInverse {a : Byte} (ha : a ≠ 0) : gf8Mul a (sboxInverse a) = 0x01#8 := by
  revert a; decide +kernel

theorem sboxInverse_ne_zero {a : Byte} (ha : a ≠ 0) : sboxInverse a ≠ 0 := by
  intro h
  have hone := gf8Mul_sboxInverse ha
  rw [h, gf8Mul_zero] at hone
  exact absurd hone (by decide)

/-- Inverting twice gives the byte back. -/
theorem sboxInverse_involutive : Function.Involutive sboxInverse := by
  intro a
  by_cases ha : a = 0
  · rw [ha, sboxInverse_zero, sboxInverse_zero]
  · have hback : gf8Mul (sboxInverse a) a = 0x01#8 :=
      (gf8Mul_comm _ _).trans (gf8Mul_sboxInverse ha)
    exact gf8Mul_inverse_unique hback (gf8Mul_sboxInverse (sboxInverse_ne_zero ha))

theorem sbox_injective : Function.Injective sbox := fun _ _ h =>
  sboxInverse_involutive.injective (congrArg affineInv h)

theorem sbox_ne_self (a : Byte) : sbox a ≠ a := by
  revert a; decide +kernel

/-- Settles O43: the table read back through `Aff` is the inverse in GF(2^8), which is unique because
multiplication commutes. -/
theorem sboxTableIsTheFormula : Obligations.SboxTableIsTheFormula := by
  refine ⟨?_, fun a ha => ?_, fun _ _ h => sbox_injective h, sbox_ne_self⟩
  · exact (sbox_eq_affine 0).trans (congrArg affine sboxInverse_zero)
  · exact ⟨sboxInverse a, gf8Mul_sboxInverse ha,
      fun _ hc => gf8Mul_inverse_unique (gf8Mul_sboxInverse ha) hc, sbox_eq_affine a⟩

/-! ### The commands -/

/-- The one test of `KEYEXP` (spec 41_key_schedule.md R127). -/
theorem firstFailure_keyexp (s : State) :
    firstFailure (commandTests s .keyexp) = if s.keyv then none else some .precond := by
  cases hkeyv : s.keyv <;> simp [commandTests, hkeyv]

/-- Settles O19: `KEYEXP` has one test, and it is the key's flag. -/
theorem keyexpExpandsTheKey : Obligations.KeyexpExpandsTheKey := by
  refine ⟨decode_encode (i := .keyexp) rfl, fun s => ⟨fun hkeyv => ?_, fun hkeyv => ?_⟩⟩
  · exact (exec_eq .keyexp s).trans (runCommand_run _ s (by rw [firstFailure_keyexp, hkeyv]; rfl))
  · exact (exec_eq .keyexp s).trans (runCommand_refuse _ s (by rw [firstFailure_keyexp, hkeyv]; rfl))

/-- `RK[r]` of the eleven round keys (spec 10_state.md R33). -/
theorem getElem?_schedule (rk : Schedule) {r : Nat} (hr : r < 11) :
    rk[r]? = some (roundKey rk r) := by
  rw [roundKey, List.getD_eq_getElem?_getD, Vector.getElem?_toList, Vector.getElem?_eq_getElem hr,
    Option.getD_some]

/-- The byte of `RKRD n` is 0x10 plus the round index (spec 41_key_schedule.md R128). -/
theorem encode_rkrd (n : BitVec 4) : encode (.rkrd n) = BitVec.ofNat 8 (0x10 + n.toNat) := by
  rw [← toNat_encode_rkrd, BitVec.ofNat_toNat, BitVec.setWidth_eq]

/-- The first failing test of `RKRD n` for a legal round index (spec 41_key_schedule.md R128). -/
theorem firstFailure_rkrd {n : BitVec 4} (hn : n.toNat ≤ 10) (s : State) :
    firstFailure (commandTests s (.rkrd n)) = if s.rkv then none else some .precond := by
  cases hrkv : s.rkv <;> simp [commandTests, hrkv, Nat.not_lt.2 hn]

/-- Settles O20: a legal round index leaves the schedule's flag as the one test, and the bytes from
0x1B to 0x1F do not decode. -/
theorem rkrdCopiesARoundKey : Obligations.RkrdCopiesARoundKey := by
  refine ⟨fun n hn => ⟨?_, fun s => ⟨fun hrkv => ?_, fun hrkv => ?_⟩⟩, fun s b hlow hhigh => ?_⟩
  · rw [← encode_rkrd]
    exact decode_encode (i := .rkrd n) (decide_eq_true hn)
  · refine ⟨roundKey s.rk n.toNat, getElem?_schedule s.rk (Nat.lt_succ_of_le hn), ?_⟩
    exact (exec_eq _ s).trans (runCommand_run _ s (by rw [firstFailure_rkrd hn, hrkv]; rfl))
  · exact (exec_eq _ s).trans (runCommand_refuse _ s (by rw [firstFailure_rkrd hn, hrkv]; rfl))
  · exact transact_wrCmd_of_error (decode_illegal (.inr (.inr (.inl ⟨hlow, hhigh⟩)))) s

end Sys2Proof.Machine
end

section
/-! PROOFS. The Block Transform: the round operations by bytes and by columns, why each loses nothing,
and the command `AESENC` (spec 42_block_transform.md). -/

namespace Sys2Proof.Machine

/-! ### The state by columns -/

/-- Byte `r` of column `c` of a state (spec 42_block_transform.md R140). -/
def column (s : Block) (c r : Nat) : Byte :=
  blockByte s (4 * c + r)

/-- Column by column, row by row, every byte is met. -/
theorem block_ext_columns {s t : Block} (h : ∀ c < 4, ∀ r < 4, column s c r = column t c r) :
    s = t := by
  refine block_ext fun i hi => ?_
  have hbyte := h (i / 4) (by omega) (i % 4) (Nat.mod_lt i (by decide))
  rwa [column, column, Nat.div_add_mod] at hbyte

/-- Byte `r` of column `c` of a block given by its bytes. -/
theorem column_blockOfFn (f : Nat → Byte) {c r : Nat} (hc : c < 4) (hr : r < 4) :
    column (blockOfFn f) c r = f (4 * c + r) :=
  blockByte_blockOfFn f (by omega)

/-! ### The round operations -/

/-- Byte `i` of `SubBytes` (spec 42_block_transform.md R141). -/
theorem blockByte_subBytes (s : Block) {i : Nat} (hi : i < 16) :
    blockByte (subBytes s) i = sbox (blockByte s i) :=
  blockByte_blockOfFn _ hi

/-- `ShiftRows` takes row `r` of column `c` from column `c + r` (spec 42_block_transform.md R142). -/
theorem column_shiftRows (s : Block) {c r : Nat} (hc : c < 4) (hr : r < 4) :
    column (shiftRows s) c r = column s ((c + r) % 4) r := by
  have hrow : (4 * c + r) % 4 = r := by omega
  have hcol : (4 * c + r) / 4 = c := by omega
  rw [shiftRows, column_blockOfFn _ hc hr, hrow, hcol, Nat.add_comm r, column]

/-- `MixColumns` applies the matrix to each column (spec 42_block_transform.md R143). -/
theorem column_mixColumns (s : Block) {c r : Nat} (hc : c < 4) (hr : r < 4) :
    column (mixColumns s) c r =
      mixColumn r (column s c 0) (column s c 1) (column s c 2) (column s c 3) := by
  have hrow : (4 * c + r) % 4 = r := by omega
  have hcol : (4 * c + r) / 4 = c := by omega
  rw [mixColumns, column_blockOfFn _ hc hr, hrow, hcol]
  rfl

/-- Byte `i` of `AddRoundKey` (spec 42_block_transform.md R144). -/
theorem blockByte_addRoundKey (s k : Block) (i : Nat) :
    blockByte (addRoundKey s k) i = blockByte s i ^^^ blockByte k i :=
  blockByte_xor s k i

/-- Settles O45: each operation by its lemma over bytes or columns. -/
theorem roundOperationsByByte : Obligations.RoundOperationsByByte := by
  refine fun s k => ⟨fun i hi => blockByte_subBytes s hi, fun r hr c hc => ?_, fun c hc => ?_,
    fun i _ => blockByte_addRoundKey s k i⟩
  · rw [Nat.add_comm r, Nat.add_comm r]
    exact column_shiftRows s hc hr
  · have hrow (r : Nat) (hr : r < 4) := column_mixColumns s hc hr
    exact ⟨hrow 0 (by decide), hrow 1 (by decide), hrow 2 (by decide), hrow 3 (by decide)⟩

/-! ### No round operation loses anything -/

theorem subBytes_injective : Function.Injective subBytes := by
  refine fun s t h => block_ext fun i hi => sbox_injective ?_
  rw [← blockByte_subBytes s hi, h, blockByte_subBytes t hi]

/-- Row `r` of column `c` went to column `c - r`. -/
theorem shiftRows_injective : Function.Injective shiftRows := by
  refine fun s t h => block_ext_columns fun c hc r hr => ?_
  have hto : (c + 4 - r) % 4 < 4 := Nat.mod_lt _ (by decide)
  have hback : ((c + 4 - r) % 4 + r) % 4 = c := by omega
  have hs := column_shiftRows s hto hr
  have ht := column_shiftRows t hto hr
  rw [hback] at hs ht
  rw [← hs, h, ht]

/-- With associativity and commutativity, this sorts a sum so that equal terms meet and cancel. -/
theorem xor_left_comm (x y z : Byte) : x ^^^ (y ^^^ z) = y ^^^ (x ^^^ z) := by
  rw [← BitVec.xor_assoc, BitVec.xor_comm x, BitVec.xor_assoc]

/-- The sum of the four bytes of a column. -/
def columnSum (s : Block) (c : Nat) : Byte :=
  column s c 0 ^^^ column s c 1 ^^^ column s c 2 ^^^ column s c 3

/-- One form for the four rows of the matrix: to the sum of the column and byte `r`, the double of
bytes `r` and `r + 1`. -/
theorem column_mixColumns_eq (s : Block) {c r : Nat} (hc : c < 4) (hr : r < 4) :
    column (mixColumns s) c r =
      columnSum s c ^^^ (column s c r ^^^ xtime (column s c r ^^^ column s c ((r + 1) % 4))) := by
  rw [column_mixColumns s hc hr, columnSum]
  generalize column s c = a
  interval_cases r <;>
    simp [mixColumn, xtime3, xtime_xor, BitVec.xor_assoc, BitVec.xor_comm, xor_left_comm]

/-- Every byte is doubled twice, so `MixColumns` keeps the sum of a column. -/
theorem columnSum_mixColumns (s : Block) {c : Nat} (hc : c < 4) :
    columnSum (mixColumns s) c = columnSum s c := by
  rw [columnSum, columnSum, column_mixColumns s hc (by decide),
    column_mixColumns s hc (by decide), column_mixColumns s hc (by decide),
    column_mixColumns s hc (by decide)]
  generalize column s c = a
  simp [mixColumn, xtime3, BitVec.xor_assoc, BitVec.xor_comm, xor_left_comm]

/-- The square of the matrix of `MixColumns`: row `r` adds four times the sum of the bytes `r` and
`r + 2` to byte `r`. -/
theorem column_mixColumns_twice (s : Block) {c r : Nat} (hc : c < 4) (hr : r < 4) :
    column (mixColumns (mixColumns s)) c r =
      column s c r ^^^ xtime (xtime (column s c r ^^^ column s c ((r + 2) % 4))) := by
  have hnext : (r + 1) % 4 < 4 := Nat.mod_lt _ (by decide)
  have htwo : ((r + 1) % 4 + 1) % 4 = (r + 2) % 4 := by omega
  rw [column_mixColumns_eq _ hc hr, columnSum_mixColumns s hc, column_mixColumns_eq s hc hr,
    column_mixColumns_eq s hc hnext, htwo]
  simp [xtime_xor, BitVec.xor_assoc, xor_left_comm]

/-- The fourth power of the matrix of `MixColumns` is the identity: the square leaves the sum of the
bytes `r` and `r + 2`, so what it adds the second time cancels what it added the first. -/
theorem mixColumns_twice_involutive : Function.Involutive (mixColumns ∘ mixColumns) := by
  refine fun s => block_ext_columns fun c hc r hr => ?_
  have hopp : (r + 2) % 4 < 4 := Nat.mod_lt _ (by decide)
  have hself : ((r + 2) % 4 + 2) % 4 = r := by omega
  simp only [Function.comp_apply]
  rw [column_mixColumns_twice _ hc hr, column_mixColumns_twice s hc hr,
    column_mixColumns_twice s hc hopp, hself]
  simp [xtime_xor, BitVec.xor_assoc, BitVec.xor_comm]

theorem mixColumns_injective : Function.Injective mixColumns :=
  mixColumns_twice_involutive.injective.of_comp

theorem addRoundKey_injective (k : Block) : Function.Injective (addRoundKey · k) :=
  fun _ _ h => (BitVec.xor_left_inj k).1 h

/-! ### The Block Transform -/

/-- By induction on the number of rounds, each a chain of operations that lose nothing. -/
theorem fullRounds_injective (rk : Schedule) (n : Nat) : Function.Injective (fullRounds rk n) := by
  induction n with
  | zero => exact Function.injective_id
  | succ n ih =>
    exact (addRoundKey_injective _).comp
      (mixColumns_injective.comp (shiftRows_injective.comp (subBytes_injective.comp ih)))

/-- The nine full rounds, between round key 0 and the round without `MixColumns`
(spec 42_block_transform.md R145). -/
theorem blockTransform_injective (rk : Schedule) : Function.Injective (blockTransform rk) :=
  (addRoundKey_injective _).comp (shiftRows_injective.comp (subBytes_injective.comp
    ((fullRounds_injective rk 9).comp (addRoundKey_injective _))))

/-- Settles O46: an injective map of the finitely many blocks to themselves meets every block. -/
theorem blockTransformIsABijection : Obligations.BlockTransformIsABijection :=
  fun rk => Finite.injective_iff_bijective.1 (blockTransform_injective rk)

/-! ### The command -/

/-- The one test of `AESENC` (spec 42_block_transform.md R146). -/
theorem firstFailure_aesenc (s : State) :
    firstFailure (commandTests s .aesenc) = if s.rkv then none else some .precond := by
  cases hrkv : s.rkv <;> simp [commandTests, hrkv]

/-- Settles O21: `AESENC` has one test, and it is the schedule's flag. -/
theorem aesencEncryptsOpa : Obligations.AesencEncryptsOpa := by
  refine ⟨decode_encode (i := .aesenc) rfl, fun s => ⟨fun hrkv => ?_, fun hrkv => ?_⟩⟩
  · exact (exec_eq .aesenc s).trans (runCommand_run _ s (by rw [firstFailure_aesenc, hrkv]; rfl))
  · exact (exec_eq .aesenc s).trans (runCommand_refuse _ s (by rw [firstFailure_aesenc, hrkv]; rfl))

end Sys2Proof.Machine
end

section
/-! PROOFS. The Galois Field Multiplier: the loop as a sum of shifted operands, why it is additive on
both sides and commutes, and the command `GFMUL` (spec 43_gf_multiplier.md). -/

namespace Sys2Proof.Machine

/-! ### Bits of a block -/

/-- Two blocks with the same bits are the same block. -/
theorem block_ext_bits {s t : Block} (h : ∀ i < 128, bit s i = bit t i) : s = t :=
  BitVec.eq_of_getMsbD_eq fun i hi => h i hi

theorem bit_xor (s t : Block) (i : Nat) : bit (s ^^^ t) i = (bit s i ^^ bit t i) :=
  BitVec.getMsbD_xor

theorem bit_zero (i : Nat) : bit 0 i = false :=
  BitVec.getMsbD_zero

/-- Bit `i` of a shifted block is the bit before it (spec 00_scope.md R11). -/
theorem bit_shr1 (s : Block) {i : Nat} (hi : i < 128) :
    bit (shr1 s) i = (decide (1 ≤ i) && bit s (i - 1)) := by
  rw [bit, shr1, BitVec.getMsbD_ushiftRight, bit]
  by_cases h : i < 1
  · simp [h]
  · simp [h, hi, Nat.not_lt.1 h]

theorem shr1_xor (s t : Block) : shr1 (s ^^^ t) = shr1 s ^^^ shr1 t :=
  BitVec.ushiftRight_xor_distrib s t 1

/-! ### Multiplication by `x` -/

/-- The block `v` where `p` holds and the zero block where it does not: a coefficient times a block. -/
def blockIf (p : Bool) (v : Block) : Block :=
  if p then v else 0

theorem blockIf_xor_left (p q : Bool) (v : Block) :
    blockIf (p ^^ q) v = blockIf p v ^^^ blockIf q v := by
  cases p <;> cases q <;> simp [blockIf]

theorem blockIf_xor_right (p : Bool) (v w : Block) :
    blockIf p (v ^^^ w) = blockIf p v ^^^ blockIf p w := by
  cases p
  · exact BitVec.xor_zero.symm
  · rfl

/-- The reduction is added where a coefficient of `x^127` falls out
(spec 43_gf_multiplier.md R161). -/
theorem gfShift_eq (v : Block) : gfShift v = shr1 v ^^^ blockIf (bit v 127) gfReduction := by
  unfold gfShift blockIf
  cases bit v 127
  · exact BitVec.xor_zero.symm
  · rfl

theorem gfShift_xor (v w : Block) : gfShift (v ^^^ w) = gfShift v ^^^ gfShift w := by
  simp only [gfShift_eq, shr1_xor, bit_xor, blockIf_xor_left]
  ac_rfl

theorem iterate_gfShift_xor (n : Nat) (v w : Block) :
    gfShift^[n] (v ^^^ w) = gfShift^[n] v ^^^ gfShift^[n] w := by
  induction n with
  | zero => rfl
  | succ n ih => simp only [Function.iterate_succ_apply', ih, gfShift_xor]

/-! ### The loop as a sum -/

/-- What iteration `n` of the loop adds: coefficient `n` of `x` times `x^n · y`
(spec 43_gf_multiplier.md R160, R161). -/
def gfTerm (x y : Block) (n : Nat) : Block :=
  blockIf (bit x n) (gfShift^[n] y)

theorem gfTerm_xor_left (x y z : Block) (n : Nat) :
    gfTerm (x ^^^ y) z n = gfTerm x z n ^^^ gfTerm y z n := by
  rw [gfTerm, bit_xor, blockIf_xor_left, gfTerm, gfTerm]

theorem gfTerm_xor_right (x y z : Block) (n : Nat) :
    gfTerm x (y ^^^ z) n = gfTerm x y n ^^^ gfTerm x z n := by
  rw [gfTerm, iterate_gfShift_xor, blockIf_xor_right, gfTerm, gfTerm]

/-- The shifted operand does not depend on `x`. -/
theorem gfLoop_v (x y : Block) (n : Nat) : (gfLoop x y n).v = gfShift^[n] y := by
  induction n with
  | zero => rfl
  | succ n ih => rw [gfLoop_succ, Function.iterate_succ_apply', ← ih]; rfl

/-- The running product is the sum of the terms so far. -/
theorem gfLoop_succ_z (x y : Block) (n : Nat) :
    (gfLoop x y (n + 1)).z = (gfLoop x y n).z ^^^ gfTerm x y n := by
  rw [gfLoop_succ, gfStep, gfLoop_v, gfTerm, blockIf]
  cases bit x n
  · exact BitVec.xor_zero.symm
  · rfl

theorem gfLoop_z_xor_left (x y z : Block) (n : Nat) :
    (gfLoop (x ^^^ y) z n).z = (gfLoop x z n).z ^^^ (gfLoop y z n).z := by
  induction n with
  | zero => exact BitVec.xor_zero.symm
  | succ n ih =>
    simp only [gfLoop_succ_z, ih, gfTerm_xor_left]
    ac_rfl

theorem gfLoop_z_xor_right (x y z : Block) (n : Nat) :
    (gfLoop x (y ^^^ z) n).z = (gfLoop x y n).z ^^^ (gfLoop x z n).z := by
  induction n with
  | zero => exact BitVec.xor_zero.symm
  | succ n ih =>
    simp only [gfLoop_succ_z, ih, gfTerm_xor_right]
    ac_rfl

/-! ### Distributivity and zero -/

theorem gfMul_xor_left (x y z : Block) : gfMul (x ^^^ y) z = gfMul x z ^^^ gfMul y z :=
  gfLoop_z_xor_left x y z 128

theorem gfMul_xor_right (x y z : Block) : gfMul x (y ^^^ z) = gfMul x y ^^^ gfMul x z :=
  gfLoop_z_xor_right x y z 128

/-- Settles O48: every term of the sum is additive in both arguments, since coefficients are added bit
by bit and multiplication by `x` is additive. -/
theorem gfMulDistributes : Obligations.GfMulDistributes :=
  fun x y z => ⟨gfMul_xor_left x y z, gfMul_xor_right x y z⟩

/-- An additive map sends zero to zero. -/
theorem map_zero_of_xor {g : Block → Block} (hadd : ∀ x y, g (x ^^^ y) = g x ^^^ g y) : g 0 = 0 := by
  simpa using hadd 0 0

theorem zero_gfMul (x : Block) : gfMul 0 x = 0 :=
  map_zero_of_xor (g := (gfMul · x)) fun y z => gfMul_xor_left y z x

theorem gfMul_zero (x : Block) : gfMul x 0 = 0 :=
  map_zero_of_xor (gfMul_xor_right x)

/-! ### The identity -/

/-- Byte 0x80 and fifteen zero bytes: the polynomial 1 (spec 43_gf_multiplier.md R160). -/
def gfOne : Block :=
  0x80#8 ++ 0#120

theorem bit_gfOne {i : Nat} (hi : i < 128) : bit gfOne i = decide (i = 0) := by
  revert hi; revert i; decide

/-- The polynomial 1 shifted `n` times is `x^n`: before bit 127 is reached nothing falls out. -/
theorem bit_iterate_gfShift_gfOne {n i : Nat} (hn : n < 128) (hi : i < 128) :
    bit (gfShift^[n] gfOne) i = decide (i = n) := by
  induction n generalizing i with
  | zero => exact bit_gfOne hi
  | succ n ih =>
    have hlast : bit (gfShift^[n] gfOne) 127 = false :=
      (ih (by omega) (by decide)).trans (decide_eq_false (by omega))
    rw [Function.iterate_succ_apply', gfShift, hlast, if_neg Bool.false_ne_true, bit_shr1 _ hi,
      ih (by omega) (by omega), ← Bool.decide_and]
    exact decide_eq_decide.2 (by omega)

/-- Term `n` of a product by 1 is coefficient `n`, in its own place. -/
theorem bit_gfTerm_gfOne (x : Block) {n i : Nat} (hn : n < 128) (hi : i < 128) :
    bit (gfTerm x gfOne n) i = (bit x n && decide (i = n)) := by
  rw [gfTerm, blockIf]
  cases bit x n
  · exact bit_zero i
  · exact bit_iterate_gfShift_gfOne hn hi

/-- The first `n` iterations copy the first `n` coefficients of `x`. -/
theorem bit_gfLoop_gfOne (x : Block) {n i : Nat} (hn : n ≤ 128) (hi : i < 128) :
    bit (gfLoop x gfOne n).z i = (decide (i < n) && bit x i) := by
  induction n with
  | zero => exact bit_zero i
  | succ n ih =>
    rw [gfLoop_succ_z, bit_xor, ih (by omega), bit_gfTerm_gfOne x hn hi]
    rcases Nat.lt_trichotomy i n with hlt | rfl | hgt
    · simp [hlt, hlt.ne, Nat.lt_succ_of_lt hlt]
    · simp
    · simp [hgt.ne', Nat.not_lt.2 hgt.le, Nat.not_lt.2 (Nat.succ_le_of_lt hgt)]

theorem gfMul_gfOne (x : Block) : gfMul x gfOne = x :=
  block_ext_bits fun i hi => by
    rw [gfMul, bit_gfLoop_gfOne x le_rfl hi, decide_eq_true hi, Bool.true_and]

/-! ### Commutativity -/

/-- What an additive map that commutes with multiplication by `x` does to a term. -/
theorem gfTerm_map {g : Block → Block} (hadd : ∀ x y, g (x ^^^ y) = g x ^^^ g y)
    (hshift : Function.Commute g gfShift) (x y : Block) (n : Nat) :
    gfTerm x (g y) n = g (gfTerm x y n) := by
  rw [gfTerm, gfTerm, ← (hshift.iterate_right n).eq y]
  cases bit x n
  · exact (map_zero_of_xor hadd).symm
  · rfl

theorem gfLoop_z_map {g : Block → Block} (hadd : ∀ x y, g (x ^^^ y) = g x ^^^ g y)
    (hshift : Function.Commute g gfShift) (x y : Block) (n : Nat) :
    (gfLoop x (g y) n).z = g (gfLoop x y n).z := by
  induction n with
  | zero => exact (map_zero_of_xor hadd).symm
  | succ n ih => rw [gfLoop_succ_z, gfLoop_succ_z, ih, gfTerm_map hadd hshift, hadd]

/-- Multiplication by a fixed block is a polynomial in multiplication by `x`, so an additive map that
commutes with the latter commutes with the former. -/
theorem gfMul_map {g : Block → Block} (hadd : ∀ x y, g (x ^^^ y) = g x ^^^ g y)
    (hshift : Function.Commute g gfShift) (x y : Block) : gfMul x (g y) = g (gfMul x y) :=
  gfLoop_z_map hadd hshift x y 128

theorem gfMul_commute_gfShift (x : Block) : Function.Commute (gfMul x) gfShift :=
  gfMul_map gfShift_xor (Function.Commute.refl gfShift) x

/-- Two factors may be applied in either order: both are polynomials in multiplication by `x`. -/
theorem gfMul_left_comm (x y z : Block) : gfMul x (gfMul y z) = gfMul y (gfMul x z) :=
  gfMul_map (gfMul_xor_right y) (gfMul_commute_gfShift y) x z

theorem gfMul_comm (x y : Block) : gfMul x y = gfMul y x := by
  have h := gfMul_left_comm x y gfOne
  rwa [gfMul_gfOne, gfMul_gfOne] at h

/-- Settles O49: both factors applied to the identity, in either order. -/
theorem gfMulCommutes : Obligations.GfMulCommutes :=
  gfMul_comm

/-- Settles O47: zero by additivity, the identity on the right by its shifts and on the left because
multiplication commutes. -/
theorem gfMulZeroAndOne : Obligations.GfMulZeroAndOne :=
  fun x => ⟨zero_gfMul x, gfMul_zero x, (gfMul_comm gfOne x).trans (gfMul_gfOne x), gfMul_gfOne x⟩

/-! ### The command -/

/-- Settles O22: `GFMUL` has no tests. -/
theorem gfmulWritesTheProduct : Obligations.GfmulWritesTheProduct :=
  ⟨decode_encode (i := .gfmul) rfl,
    fun s => (exec_eq .gfmul s).trans (runCommand_run _ s firstFailure_nil)⟩

end Sys2Proof.Machine
end

section
/-! PROOFS. The GHASH Accumulator: the fold from any start value, which goes over two messages one after
the other, and the command `GHASH` (spec 44_ghash.md). -/

namespace Sys2Proof.Machine

/-! ### Pieces of two messages in a row -/

/-- The pieces of whole chunks are not changed by what follows them (spec 20_memory.md R61). -/
theorem piece_append_left {d : List Byte} (e : List Byte) {j : Nat} (hj : j < d.length / 16) :
    piece (d ++ e) j = piece d j := by
  have hfits : 16 * j + 16 ≤ d.length := by omega
  rw [piece, piece, List.drop_append_of_le_length (by omega),
    List.take_append_of_le_length (by rw [List.length_drop]; omega)]

/-- After whole chunks come the pieces of the message that follows them (spec 20_memory.md R61). -/
theorem piece_append_right {d : List Byte} (e : List Byte) (hd : d.length % 16 = 0) (j : Nat) :
    piece (d ++ e) (d.length / 16 + j) = piece e j := by
  have hstart : 16 * (d.length / 16 + j) = d.length + 16 * j := by omega
  rw [piece, hstart, List.drop_length_add_append, piece]

/-- A message of one chunk is its piece 0. -/
theorem piece_zero_of_length {c : List Byte} (hc : c.length = 16) : piece c 0 = c :=
  List.take_of_length_le hc.le

/-! ### The fold -/

/-- The fold of `Ghash` from any value of the accumulator (spec 44_ghash.md R171). -/
def ghashFrom (y : Block) (d : List Byte) (h : Block) : Block :=
  (List.range (d.length / 16)).foldl (fun y j => ghashStep y (blockOfBytes (piece d j)) h) y

/-- `Ghash` starts from zero (spec 44_ghash.md R171). -/
theorem ghash_eq_ghashFrom (d : List Byte) (h : Block) : ghash d h = ghashFrom 0 d h := rfl

/-- Folding whole chunks and then a message is folding one after the other. -/
theorem ghashFrom_append (y : Block) {d : List Byte} (e : List Byte) (h : Block)
    (hd : d.length % 16 = 0) : ghashFrom y (d ++ e) h = ghashFrom (ghashFrom y d h) e h := by
  have hchunks : (d ++ e).length / 16 = d.length / 16 + e.length / 16 := by
    rw [List.length_append]; omega
  have hfirst : ghashFrom y d h = (List.range (d.length / 16)).foldl
      (fun y j => ghashStep y (blockOfBytes (piece (d ++ e) j)) h) y :=
    List.foldl_ext _ _ _ fun _ _ hj => by rw [piece_append_left e (List.mem_range.1 hj)]
  rw [hfirst, ghashFrom, hchunks, List.range_add, List.foldl_append, List.foldl_map, ghashFrom]
  simp only [piece_append_right e hd]

/-- One chunk is one `GhashStep` (spec 44_ghash.md R171). -/
theorem ghashFrom_chunk (y : Block) {c : List Byte} (h : Block) (hc : c.length = 16) :
    ghashFrom y c h = ghashStep y (blockOfBytes c) h := by
  rw [ghashFrom, hc]
  change ghashStep y (blockOfBytes (piece c 0)) h = _
  rw [piece_zero_of_length hc]

theorem blockOfBytes_zeros : blockOfBytes (zeros 16) = 0 := by decide

/-- A zero chunk leaves an accumulator of zero. -/
theorem ghashStep_zero (h : Block) : ghashStep 0 0 h = 0 :=
  (congrArg (gfMul · h) BitVec.xor_zero).trans (zero_gfMul h)

/-- Settles O50: the fold goes over a message and a chunk, on either side, one after the other. -/
theorem ghashFoldsInOrder : Obligations.GhashFoldsInOrder := by
  refine fun h d c hd hc => ⟨rfl, ?_, ?_, ?_⟩
  · rw [ghash_eq_ghashFrom, ghashFrom_chunk 0 h hc]
    exact congrArg (gfMul · h) BitVec.zero_xor
  · rw [ghash_eq_ghashFrom, ghashFrom_append 0 c h hd, ghashFrom_chunk _ h hc, ghashStep,
      ghash_eq_ghashFrom]
  · rw [ghash_eq_ghashFrom, ghashFrom_append 0 d h (by rw [length_zeros]),
      ghashFrom_chunk 0 h (length_zeros 16), blockOfBytes_zeros, ghashStep_zero, ghash_eq_ghashFrom]

/-! ### The command -/

/-- The one test of `GHASH` (spec 44_ghash.md R172). -/
theorem firstFailure_ghash (s : State) :
    firstFailure (commandTests s .ghash) =
      if s.textTooLong || s.textRagged then some .length else none := rfl

/-- The run of `GHASH` writes `RES` and `ERR` (spec 44_ghash.md R172). -/
theorem sameButWorking_ghashBody (s : State) :
    SameButWorking { s with res := ghash s.text s.opb, err := 0x00#8 } (ghashBody s) := by
  rw [ghashBody_eq]
  rfl

/-- Settles O23: `GHASH` has one test, which is the bounds on the length of the text, and then runs. -/
theorem ghashDigestsTheText : Obligations.GhashDigestsTheText := by
  refine fun s => ⟨fun hfits hlimit hwhole => ?_, fun hbad => ?_⟩
  · have hlong : s.textTooLong = false := State.textTooLong_eq_false.2 ⟨hfits, hlimit⟩
    have hragged : s.textRagged = false := State.textRagged_eq_false.2 hwhole
    have hpass : firstFailure (commandTests s .ghash) = none := by
      rw [firstFailure_ghash, hlong, hragged]; rfl
    exact ⟨_, (exec_eq .ghash s).trans (runCommand_run _ s hpass), sameButWorking_ghashBody s⟩
  · have hfails : (s.textTooLong || s.textRagged) = true := by
      rwa [Bool.or_eq_true, State.textTooLong_iff, State.textRagged_iff, or_assoc]
    exact (exec_eq .ghash s).trans
      (runCommand_refuse _ s (by rw [firstFailure_ghash, if_pos hfails]))

end Sys2Proof.Machine
end

section
/-! PROOFS. The Counter-Mode Encryptor: the counter and its block, a pass as one xor with the keystream
at each byte, and the command `CTRXOR` (spec 45_counter_mode.md). -/

namespace Sys2Proof.Machine

/-! ### The counter -/

/-- The counter wraps to 1 (spec 45_counter_mode.md R183). -/
theorem inc32_allOnes : inc32 0xFFFFFFFF#32 = 1#32 := rfl

/-- Below its last value the counter is increased without a carry out of its 32 bits (spec
45_counter_mode.md R183). -/
theorem toNat_inc32 {c : Word} (hc : c ≠ 0xFFFFFFFF#32) : (inc32 c).toNat = c.toNat + 1 := by
  rw [inc32, if_neg hc]
  bv_omega

/-- No counter is followed by 0 (spec 45_counter_mode.md R183). -/
theorem inc32_ne_zero (c : Word) : inc32 c ≠ 0#32 := by
  by_cases hc : c = 0xFFFFFFFF#32
  · rw [hc, inc32_allOnes]
    decide
  · have hsucc := toNat_inc32 hc
    bv_omega

/-- Settles O51: the wrap, the other counters, and both together. -/
theorem counterWrapsToOne : Obligations.CounterWrapsToOne :=
  ⟨inc32_allOnes, fun _ => toNat_inc32, inc32_ne_zero⟩

/-- The counter of block `n` of a pass: it starts at 2 (spec 45_counter_mode.md R182). -/
def passCounter (n : Nat) : Word := inc32^[n] 2#32

theorem passCounter_succ (n : Nat) : passCounter (n + 1) = inc32 (passCounter n) :=
  Function.iterate_succ_apply' inc32 n 2#32

/-- The value of `CTR` after `n` blocks of a pass depends on `n` alone. -/
theorem ctrPrefix_ctr (rk : Schedule) (iv : IvWord) (d : List Byte) (n : Nat) :
    (ctrPrefix rk iv d n).ctr = passCounter n := by
  induction n with
  | zero => rfl
  | succ n ih => rw [ctrPrefix_succ, passCounter_succ, ← ih]; rfl

/-- Within the bound on the blocks of a pass the counter does not wrap (spec 45_counter_mode.md
R184). -/
theorem toNat_passCounter {n : Nat} (hn : n < 2 ^ 32 - 2) : (passCounter n).toNat = 2 + n := by
  induction n with
  | zero => rfl
  | succ n ih =>
    have hval : (passCounter n).toNat = 2 + n := ih (by omega)
    have hlast : passCounter n ≠ 0xFFFFFFFF#32 := by bv_omega
    rw [passCounter_succ, toNat_inc32 hlast, hval, Nat.add_assoc]

theorem passCounter_eq_ofNat {n : Nat} (hn : n < 2 ^ 32 - 2) :
    passCounter n = BitVec.ofNat 32 (2 + n) := by
  rw [← toNat_passCounter hn, BitVec.ofNat_toNat, BitVec.setWidth_eq]

/-! ### The bytes of a counter block -/

/-- The first twelve bytes of a counter block are those of the IV (spec 45_counter_mode.md R181). -/
theorem blockByte_counterBlock_iv (iv : IvWord) (c : Word) {k : Nat} (hk : k < 12) :
    blockByte (counterBlock iv c) k = iv.extractLsb' (8 * (11 - k)) 8 := by
  have hpos : 8 * (15 - k) = 8 * (11 - k) + 32 := by omega
  rw [blockByte, counterBlock, hpos, BitVec.extractLsb'_append_eq_of_le (Nat.le_add_left _ _),
    Nat.add_sub_cancel]

/-- The last four bytes of a counter block are the counter's, most significant first (spec
45_counter_mode.md R181). -/
theorem blockByte_counterBlock_ctr (iv : IvWord) (c : Word) {k : Nat} (hk : k < 4) :
    blockByte (counterBlock iv c) (12 + k) = BitVec.ofNat 8 (c.toNat / 2 ^ (8 * (3 - k))) := by
  have hpos : 15 - (12 + k) = 3 - k := by omega
  rw [blockByte, counterBlock, hpos, BitVec.extractLsb'_append_eq_of_add_le (by omega),
    BitVec.extractLsb', Nat.shiftRight_eq_div_pow]

/-- Settles O52: the sixteen bytes are twelve and then four. -/
theorem counterBlockBytes : Obligations.CounterBlockBytes := by
  intro iv c
  have hiv : (List.range 12).map (blockByte (counterBlock iv c)) = ivBytes iv :=
    List.map_congr_left fun k hk => blockByte_counterBlock_iv iv c (List.mem_range.1 hk)
  have hctr : (List.range 4).map (fun k => blockByte (counterBlock iv c) (12 + k)) = be32 c.toNat :=
    List.map_congr_left fun k hk => blockByte_counterBlock_ctr iv c (List.mem_range.1 hk)
  calc blockBytes (counterBlock iv c)
      = (List.range (12 + 4)).map (blockByte (counterBlock iv c)) := rfl
    _ = (List.range 12).map (blockByte (counterBlock iv c)) ++
          (List.range 4).map (fun k => blockByte (counterBlock iv c) (12 + k)) := by
        rw [List.range_add, List.map_append, List.map_map]; rfl
    _ = ivBytes iv ++ be32 c.toNat := by rw [hiv, hctr]

/-! ### A pass as an xor with the keystream -/

/-- Block `n` of the keystream (spec 45_counter_mode.md R182). -/
def keystreamBlock (rk : Schedule) (iv : IvWord) (n : Nat) : Block :=
  blockTransform rk (counterBlock iv (passCounter n))

/-- Byte `b` of a text, at index `k`, with byte `k` of the keystream added (spec 45_counter_mode.md
R182). -/
def addKeystream (rk : Schedule) (iv : IvWord) (k : Nat) (b : Byte) : Byte :=
  b ^^^ blockByte (keystreamBlock rk iv (k / 16)) (k % 16)

/-- Adding the keystream byte of the same index twice changes nothing. -/
theorem addKeystream_addKeystream (rk : Schedule) (iv : IvWord) (k : Nat) (b : Byte) :
    addKeystream rk iv k (addKeystream rk iv k b) = b := by
  rw [addKeystream, addKeystream, BitVec.xor_assoc, BitVec.xor_self, BitVec.xor_zero]

/-- One more block puts out the text's next piece xored with its keystream block (spec
45_counter_mode.md R182). -/
theorem ctrPrefix_succ_out (rk : Schedule) (iv : IvWord) (d : List Byte) (n : Nat) :
    (ctrPrefix rk iv d (n + 1)).out =
      (ctrPrefix rk iv d n).out ++ xorBytes (piece d n) (blockBytes (keystreamBlock rk iv n)) := by
  rw [ctrPrefix_succ, keystreamBlock, ← ctrPrefix_ctr rk iv d n]
  rfl

/-- Within its piece, a keystream block is added byte by byte at the indices of the whole text. -/
theorem xorBytes_piece_keystreamBlock (rk : Schedule) (iv : IvWord) (d : List Byte) (n : Nat) :
    xorBytes (piece d n) (blockBytes (keystreamBlock rk iv n)) =
      (piece d n).mapIdx fun k => addKeystream rk iv (k + (d.take (16 * n)).length) := by
  refine List.ext_getElem ?_ fun k _ hk => ?_
  · simp [length_piece]
  · rw [List.length_mapIdx, length_piece] at hk
    have hstart : (d.take (16 * n)).length = 16 * n := by rw [List.length_take]; omega
    have hblock : (k + 16 * n) / 16 = n := by omega
    have hbyte : (k + 16 * n) % 16 = k := by omega
    simp [xorBytes, blockBytes, addKeystream, hstart, hblock, hbyte]

/-- After `n` blocks a pass has put out the text so far with the keystream added. -/
theorem ctrPrefix_out (rk : Schedule) (iv : IvWord) (d : List Byte) (n : Nat) :
    (ctrPrefix rk iv d n).out = (d.take (16 * n)).mapIdx (addKeystream rk iv) := by
  induction n with
  | zero => rfl
  | succ n ih =>
    have htake : d.take (16 * (n + 1)) = d.take (16 * n) ++ piece d n := List.take_add
    rw [ctrPrefix_succ_out, ih, xorBytes_piece_keystreamBlock, htake, List.mapIdx_append]

/-- Counter mode adds the keystream, byte by byte (spec 45_counter_mode.md R182). -/
theorem ctrXor_eq_mapIdx (rk : Schedule) (iv : IvWord) (d : List Byte) :
    ctrXor rk iv d = d.mapIdx (addKeystream rk iv) := by
  have hall : d.take (16 * ceil16 d.length) = d :=
    List.take_of_length_le (by rw [ceil16]; omega)
  calc ctrXor rk iv d = (ctrPrefix rk iv d (ceil16 d.length)).out := rfl
    _ = d.mapIdx (addKeystream rk iv) := by rw [ctrPrefix_out, hall]

/-- Byte `k` of the result of counter mode, with the counter of its block (spec 45_counter_mode.md
R182). -/
theorem getD_ctrXor (rk : Schedule) (iv : IvWord) {d : List Byte} (hd : ceil16 d.length ≤ maxBlocks)
    {k : Nat} (hk : k < d.length) :
    (ctrXor rk iv d).getD k 0 =
      d.getD k 0 ^^^
        blockByte (blockTransform rk (counterBlock iv (BitVec.ofNat 32 (2 + k / 16)))) (k % 16) := by
  have hblock : k / 16 < 2 ^ 32 - 2 := by rw [ceil16, maxBlocks] at hd; omega
  rw [ctrXor_eq_mapIdx, List.getD_eq_getElem _ _ (by rwa [List.length_mapIdx]), List.getElem_mapIdx,
    List.getD_eq_getElem _ _ hk, addKeystream, keystreamBlock, passCounter_eq_ofNat hblock]

/-- Settles O54: a pass adds the keystream, and the counter of block `n` is `2 + n`. -/
theorem counterModeInClosedForm : Obligations.CounterModeInClosedForm :=
  fun rk iv d hd => ⟨length_ctrXor rk iv d, fun _ => getD_ctrXor rk iv hd⟩

/-- Counter mode is an involution (spec 45_counter_mode.md R180). -/
theorem ctrXor_ctrXor (rk : Schedule) (iv : IvWord) (d : List Byte) :
    ctrXor rk iv (ctrXor rk iv d) = d := by
  rw [ctrXor_eq_mapIdx, ctrXor_eq_mapIdx, List.mapIdx_mapIdx]
  exact List.ext_getElem List.length_mapIdx fun k _ _ => by
    rw [List.getElem_mapIdx, Function.comp_apply, addKeystream_addKeystream]

/-- Settles O55: the keystream does not depend on the text, so the second pass adds the same one. -/
theorem counterModeIsSelfInverse : Obligations.CounterModeIsSelfInverse := ctrXor_ctrXor

/-- Settles O53: `CTR` has the value `2 + n` at block `n`, which does not wrap within the bound. -/
theorem countersOfAPassAreDistinct : Obligations.CountersOfAPassAreDistinct := by
  refine fun rk iv d hd => ⟨rfl, fun n hn => ?_⟩
  have hval {m : Nat} (hm : m ≤ n) : (ctrPrefix rk iv d m).ctr.toNat = 2 + m := by
    rw [ctrPrefix_ctr, toNat_passCounter (by omega)]
  have hctr := hval le_rfl
  refine ⟨?_, hctr, by bv_omega, by bv_omega, fun m hm => ?_⟩
  · rw [ctrPrefix_succ_out, keystreamBlock, ctrPrefix_ctr]
  · have hbefore := hval hm.le
    bv_omega

/-! ### The command -/

/-- `CTRXOR` runs when it has a schedule and an IV and the text is within the three bounds (spec
45_counter_mode.md R185). -/
theorem firstFailure_ctrxor {s : State} (hrkv : s.rkv = true) (hivv : s.ivv = true)
    (hlong : s.textTooLong = false) (hctr : s.counterExhausted = false) :
    firstFailure (commandTests s .ctrxor) = none := by
  simp [commandTests, hrkv, hivv, hlong, hctr]

/-- The run of `CTRXOR` writes `OBUF` and `ERR` (spec 45_counter_mode.md R185). -/
theorem sameButWorking_ctrxorBody (s : State) :
    SameButWorking { s with obuf := (ctrxorBody s).obuf, err := 0x00#8 } (ctrxorBody s) := by
  rw [ctrxorBody_eq]
  rfl

/-- Settles O24: the tests pass, and the output is the text in counter mode. -/
theorem ctrxorWritesKeystreamText : Obligations.CtrxorWritesKeystreamText := by
  intro s hrkv hivv hfits hlimit hblocks
  have hpass : firstFailure (commandTests s .ctrxor) = none :=
    firstFailure_ctrxor hrkv hivv (State.textTooLong_eq_false.2 ⟨hfits, hlimit⟩)
      (State.counterExhausted_eq_false.2 hblocks)
  refine ⟨ctrxorBody s, (exec_eq .ctrxor s).trans (runCommand_run _ s hpass),
    sameButWorking_ctrxorBody s, fun k => ?_⟩
  have hlen : (outputText s .ctrxor).length = s.dlen.toNat :=
    (length_ctrXor _ _ _).trans s.length_text
  refine (bufByte_obuf_commandBody s .ctrxor k).trans ?_
  rw [hlen]
  by_cases hk : k < s.dlen.toNat
  · rw [if_pos hk, if_pos hk, ← s.getD_text hk]
    exact getD_ctrXor s.rk s.iv (by rwa [s.length_text]) (by rwa [s.length_text])
  · rw [if_neg hk, if_neg hk]

end Sys2Proof.Machine
end

section
/-! PROOFS. The GCM Orchestrator: the authenticator input byte by byte, the tag, encryption and
decryption as functions of the messages, and the commands `GCMENC` and `GCMDEC` (spec 46_gcm.md). -/

namespace Sys2Proof.Machine

/-! ### The authenticator input -/

/-- Padding fills the last block (spec 46_gcm.md R190). -/
@[simp] theorem length_pad16 (d : List Byte) : (pad16 d).length = 16 * ceil16 d.length := by
  rw [pad16, List.length_append, length_zeros, ceil16]
  omega

/-- Padding adds zero bytes, which is what a read past the end of a message gives. -/
theorem getD_pad16 (d : List Byte) (k : Nat) : (pad16 d).getD k 0 = d.getD k 0 := by
  by_cases hk : k < d.length
  · rw [pad16, List.getD_append _ _ _ _ hk]
  · have hpast : d.length ≤ k := Nat.le_of_not_lt hk
    rw [pad16, List.getD_append_right _ _ _ _ hpast, List.getD_eq_default d 0 hpast, zeros,
      List.getD_eq_getElem?_getD, List.getElem?_replicate]
    split <;> rfl

@[simp] theorem length_lenBlock (a c : List Byte) : (lenBlock a c).length = 16 := by
  rw [lenBlock, List.length_append, length_be64, length_be64]

/-- The length block comes after the blocks of the two messages (spec 46_gcm.md R190). -/
theorem length_padded (a c : List Byte) :
    (pad16 a ++ pad16 c).length = 16 * (ceil16 a.length + ceil16 c.length) := by
  rw [List.length_append, length_pad16, length_pad16, Nat.mul_add]

theorem length_authInput (a c : List Byte) :
    (authInput a c).length = 16 * (ceil16 a.length + ceil16 c.length + 1) := by
  rw [authInput, List.length_append, length_padded, length_lenBlock, Nat.mul_add_one]

/-- In its first blocks the authenticator input is the padded associated data (spec 46_gcm.md
R190). -/
theorem getD_authInput_aad {a : List Byte} (c : List Byte) {k : Nat}
    (hk : k < 16 * ceil16 a.length) : (authInput a c).getD k 0 = a.getD k 0 := by
  rw [authInput, List.append_assoc, List.getD_append _ _ _ _ (by rwa [length_pad16]), getD_pad16]

/-- In the blocks after those it is the padded ciphertext (spec 46_gcm.md R190). -/
theorem getD_authInput_text (a : List Byte) {c : List Byte} {k : Nat}
    (hk : k < 16 * ceil16 c.length) :
    (authInput a c).getD (16 * ceil16 a.length + k) 0 = c.getD k 0 := by
  have hbefore : 16 * ceil16 a.length + k < (pad16 a ++ pad16 c).length := by
    rw [length_padded]
    omega
  have hafter : (pad16 a).length ≤ 16 * ceil16 a.length + k := by
    rw [length_pad16]
    omega
  rw [authInput, List.getD_append _ _ _ _ hbefore, List.getD_append_right _ _ _ _ hafter,
    length_pad16, Nat.add_sub_cancel_left, getD_pad16]

theorem length_le_ceil16 (n : Nat) : n ≤ 16 * ceil16 n := by
  rw [ceil16]
  omega

theorem authInput_nil_nil : authInput [] [] = zeros 16 := by decide

/-- Settles O56: each byte before the length block is one of a padded message, and padding reads as
zero. -/
theorem authenticatorInputShape : Obligations.AuthenticatorInputShape := by
  refine fun a c => ⟨length_authInput a c, fun k hk => ?_, fun k hpast hk => ?_, fun k hk => ?_,
    fun k hpast hk => ?_, ?_, authInput_nil_nil⟩
  · exact getD_authInput_aad c (hk.trans_le (length_le_ceil16 _))
  · rw [getD_authInput_aad c hk, List.getD_eq_default a 0 hpast]
  · exact getD_authInput_text a (hk.trans_le (length_le_ceil16 _))
  · rw [getD_authInput_text a hk, List.getD_eq_default c 0 hpast]
  · exact List.drop_left' (length_padded a c)

/-! ### The tag, encryption and decryption -/

/-- The digest of one zero chunk is zero (spec 44_ghash.md R171). -/
theorem ghash_zero_chunk (h : Block) : ghash (zeros 16) h = 0 := by
  rw [ghash_eq_ghashFrom, ghashFrom_chunk 0 h (length_zeros 16), blockOfBytes_zeros, ghashStep_zero]

/-- Settles O57: the authenticator input is one zero chunk, whose digest is zero. -/
theorem tagOfTheEmptyMessage : Obligations.TagOfTheEmptyMessage := by
  intro rk iv
  rw [gcmTag, authInput_nil_nil, ghash_zero_chunk, j0]
  exact BitVec.xor_zero

/-- The ciphertext and the tag of it (spec 46_gcm.md R193). -/
theorem gcmEncrypt_eq (key : Block) (iv : IvWord) (a p : List Byte) :
    gcmEncrypt key iv a p =
      (ctrXor (keyExpand key) iv p, gcmTag (keyExpand key) iv a (ctrXor (keyExpand key) iv p)) :=
  rfl

/-- Decryption answers a plaintext exactly for the tag of the ciphertext (spec 46_gcm.md R194). -/
theorem gcmDecrypt_eq_plaintext_iff {key : Block} {iv : IvWord} {a c p : List Byte} {t : Block} :
    gcmDecrypt key iv a c t = .plaintext p ↔
      gcmTag (keyExpand key) iv a c = t ∧ ctrXor (keyExpand key) iv c = p := by
  unfold gcmDecrypt
  by_cases htag : gcmTag (keyExpand key) iv a c = t <;> simp [htag]

/-- Decryption fails exactly for every other tag (spec 46_gcm.md R194). -/
theorem gcmDecrypt_eq_failure_iff {key : Block} {iv : IvWord} {a c : List Byte} {t : Block} :
    gcmDecrypt key iv a c t = .authenticationFailure ↔ gcmTag (keyExpand key) iv a c ≠ t := by
  unfold gcmDecrypt
  by_cases htag : gcmTag (keyExpand key) iv a c = t <;> simp [htag]

/-- A ciphertext has one tag: where decryption accepts a tag it fails for every other (spec
46_gcm.md R194). -/
theorem gcmDecrypt_other_tag {key : Block} {iv : IvWord} {a c p : List Byte} {t t' : Block}
    (h : gcmDecrypt key iv a c t = .plaintext p) (hne : t' ≠ t) :
    gcmDecrypt key iv a c t' = .authenticationFailure := by
  obtain ⟨rfl, -⟩ := gcmDecrypt_eq_plaintext_iff.1 h
  exact gcmDecrypt_eq_failure_iff.2 hne.symm

/-- Settles O58: the tag is that of the same ciphertext, and counter mode undoes itself. -/
theorem decryptionUndoesEncryption : Obligations.DecryptionUndoesEncryption := by
  intro key iv a p
  rw [gcmEncrypt_eq]
  exact gcmDecrypt_eq_plaintext_iff.2 ⟨rfl, ctrXor_ctrXor _ iv p⟩

/-! ### The tests of a call -/

/-- The conditions under which `GCMENC` and `GCMDEC` run (spec 46_gcm.md R195, R196). -/
structure State.CallReady (s : State) : Prop where
  keyv : s.keyv = true
  ivv : s.ivv = true
  aad : s.alen.toNat ≤ s.abufSize ∧ s.alen.toNat < 2 ^ 61
  text : s.dlen.toNat ≤ s.dbufSize ∧ s.dlen.toNat < 2 ^ 61
  blocks : (s.dlen.toNat + 15) / 16 ≤ 2 ^ 32 - 2

theorem firstFailure_cons_eq_none {b : Bool} {e : ErrCode} {l : List (Bool × ErrCode)} :
    firstFailure ((b, e) :: l) = none ↔ b = false ∧ firstFailure l = none := by
  cases b <;> simp

/-- Every test of a call passes exactly under these conditions (spec 60_exceptions.md R213 to
R215). -/
theorem firstFailure_gcmTests_eq_none {s : State} :
    firstFailure s.gcmTests = none ↔ s.CallReady := by
  simp only [State.gcmTests, firstFailure_cons_eq_none, firstFailure_nil, State.lacksKeyOrIv_eq,
    Bool.or_eq_false_iff, Bool.not_eq_false', State.aadTooLong_eq_false,
    State.textTooLong_eq_false, State.counterExhausted_eq_false]
  exact ⟨fun ⟨⟨hkeyv, hivv⟩, ⟨haad, htext⟩, hblocks, _⟩ => ⟨hkeyv, hivv, haad, htext, hblocks⟩,
    fun ⟨hkeyv, hivv, haad, htext, hblocks⟩ => ⟨⟨hkeyv, hivv⟩, ⟨haad, htext⟩, hblocks, trivial⟩⟩

/-- No test looks at `TAG`. -/
theorem State.CallReady.setTag {s : State} (h : s.CallReady) (v : Block) : (s.setTag v).CallReady :=
  ⟨h.keyv, h.ivv, h.aad, h.text, h.blocks⟩

theorem State.CallReady.exec_gcmenc {s : State} (h : s.CallReady) :
    exec .gcmenc s = .next (gcmencBody s) :=
  runCommand_run gcmencBody s (firstFailure_gcmTests_eq_none.2 h)

theorem State.CallReady.exec_gcmdec {s : State} (h : s.CallReady) :
    exec .gcmdec s = .next (gcmdecBody s) :=
  runCommand_run gcmdecBody s (firstFailure_gcmTests_eq_none.2 h)

/-- A command that ends with `ERR = 0x00` was not refused: its tests passed and it has run. -/
theorem exec_ok {i : Instr} {s t : State} (ht : exec i s = .next t) (herr : t.err = 0x00#8) :
    firstFailure (commandTests s i) = none ∧ t = commandBody i s := by
  rcases exec_cases ht with ⟨e, he, rfl⟩ | hrun
  · obtain ⟨hok, -⟩ := refusal_code_ne he
    exact absurd herr hok
  · exact hrun

theorem exec_gcmenc_ok {s t : State} (ht : exec .gcmenc s = .next t) (herr : t.err = 0x00#8) :
    s.CallReady ∧ t = gcmencBody s :=
  (exec_ok ht herr).imp_left firstFailure_gcmTests_eq_none.1

theorem exec_gcmdec_ok {s t : State} (ht : exec .gcmdec s = .next t) (herr : t.err = 0x00#8) :
    s.CallReady ∧ t = gcmdecBody s :=
  (exec_ok ht herr).imp_left firstFailure_gcmTests_eq_none.1

/-! ### `GCMENC` -/

/-- The run of `GCMENC` writes `TAG`, `OBUF` and `ERR`, and discards the key material (spec
46_gcm.md R195, R197). -/
theorem sameButWorking_gcmencBody (s : State) :
    SameButWorking
      { s with
        key := 0, iv := 0, rk := Vector.replicate 11 0, keyv := false, ivv := false, rkv := false
        tag := (gcmEncrypt s.key s.iv s.aad s.text).2, obuf := (gcmencBody s).obuf, err := 0x00#8 }
      (gcmencBody s) := by
  rw [sameButWorking_iff, gcmencBody_eq]
  simp [State.withSchedule, State.withTagOf, gcmEncrypt_eq]

/-- The ciphertext is as long as the text (spec 46_gcm.md R193). -/
theorem length_ciphertext (s : State) :
    (gcmEncrypt s.key s.iv s.aad s.text).1.length = s.dlen.toNat :=
  (length_ctrXor _ _ _).trans s.length_text

theorem gcmencBody_tag (s : State) :
    (gcmencBody s).tag = (gcmEncrypt s.key s.iv s.aad s.text).2 :=
  congrArg (·.tag) (sameButWorking_gcmencBody s)

theorem gcmencBody_dlen (s : State) : (gcmencBody s).dlen = s.dlen := by
  obtain ⟨-, hdlen, -⟩ := gcmencBody_kept s
  exact hdlen

theorem gcmencBody_capacities (s : State) :
    (gcmencBody s).abufSize = s.abufSize ∧ (gcmencBody s).dbufSize = s.dbufSize := by
  obtain ⟨habuf, hdbuf, -⟩ := (commandBody_run .gcmenc s).surroundings
  exact ⟨habuf, hdbuf⟩

/-- `GCMENC` leaves the associated data (spec 20_memory.md R66). -/
theorem gcmencBody_aad (s : State) : (gcmencBody s).aad = s.aad := by
  obtain ⟨halen, -, -, -, -, habuf, -, hresets, -⟩ := gcmencBody_kept s
  have hbuf : (gcmencBody s).buf .abuf = s.buf .abuf := habuf
  rw [State.aad, halen]
  exact State.memRead_congr fun a _ => State.bufByte_congr hbuf hresets a

/-- The bytes of `OBUF` after `GCMENC`: the ciphertext, and beyond it what was there (spec 46_gcm.md
R195). -/
theorem bufByte_obuf_gcmencBody (s : State) (k : Nat) :
    (gcmencBody s).bufByte .obuf k =
      if k < s.dlen.toNat then (gcmEncrypt s.key s.iv s.aad s.text).1.getD k 0
      else s.bufByte .obuf k := by
  rw [← length_ciphertext s]
  exact bufByte_obuf_commandBody s .gcmenc k

/-- Settles O25: the tests pass, and the run writes the ciphertext and its tag. -/
theorem gcmencIsGcmEncrypt : Obligations.GcmencIsGcmEncrypt := by
  intro s hkeyv hivv hafits halimit hdfits hdlimit hblocks
  have hready : s.CallReady := ⟨hkeyv, hivv, ⟨hafits, halimit⟩, ⟨hdfits, hdlimit⟩, hblocks⟩
  exact ⟨length_ciphertext s, gcmencBody s, hready.exec_gcmenc, sameButWorking_gcmencBody s,
    bufByte_obuf_gcmencBody s⟩

/-! ### `GCMDEC` -/

/-- What `GcmDecrypt` answers for the operands of `GCMDEC` (spec 46_gcm.md R196). -/
def State.decryption (s : State) : Decryption :=
  gcmDecrypt s.key s.iv s.aad s.text s.tag

/-- With its own tag, the run of `GCMDEC` writes `OBUF` and `ERR`, and discards the key material
(spec 46_gcm.md R196, R197). -/
theorem sameButWorking_gcmdecBody_plaintext {s : State} {p : List Byte}
    (h : s.decryption = .plaintext p) :
    SameButWorking
      { s with
        key := 0, iv := 0, rk := Vector.replicate 11 0, keyv := false, ivv := false, rkv := false
        obuf := (gcmdecBody s).obuf, err := 0x00#8 }
      (gcmdecBody s) := by
  obtain ⟨htag, -⟩ := gcmDecrypt_eq_plaintext_iff.1 h
  rw [sameButWorking_iff, gcmdecBody_eq, if_pos htag]
  simp [State.withSchedule, State.withTagOf]

/-- With another tag it writes `ERR` alone and discards the key material (spec 46_gcm.md R196). -/
theorem sameButWorking_gcmdecBody_failure {s : State} (h : s.decryption = .authenticationFailure) :
    SameButWorking
      { s with
        key := 0, iv := 0, rk := Vector.replicate 11 0, keyv := false, ivv := false, rkv := false
        err := 0x05#8 }
      (gcmdecBody s) := by
  rw [sameButWorking_iff, gcmdecBody_eq, if_neg (gcmDecrypt_eq_failure_iff.1 h)]
  simp [State.withSchedule, State.withTagOf]

/-- A plaintext is as long as the ciphertext (spec 46_gcm.md R194). -/
theorem length_plaintext {s : State} {p : List Byte} (h : s.decryption = .plaintext p) :
    p.length = s.dlen.toNat := by
  obtain ⟨-, rfl⟩ := gcmDecrypt_eq_plaintext_iff.1 h
  rw [length_ctrXor, State.length_text]

/-- The output of `GCMDEC` with the tag of its text is the plaintext (spec 46_gcm.md R196). -/
theorem outputText_gcmdec {s : State} {p : List Byte} (h : s.decryption = .plaintext p) :
    outputText s .gcmdec = p := by
  obtain ⟨htag, hp⟩ := gcmDecrypt_eq_plaintext_iff.1 h
  exact (if_pos htag).trans hp

/-- The bytes of `OBUF` after `GCMDEC` with the tag of its text: the plaintext, and beyond it what
was there (spec 46_gcm.md R196). -/
theorem bufByte_obuf_gcmdecBody {s : State} {p : List Byte} (h : s.decryption = .plaintext p)
    (k : Nat) :
    (gcmdecBody s).bufByte .obuf k =
      if k < s.dlen.toNat then p.getD k 0 else s.bufByte .obuf k := by
  rw [← length_plaintext h, ← outputText_gcmdec h]
  exact bufByte_obuf_commandBody s .gcmdec k

/-- Settles O26: the tests pass, and the run follows what `GcmDecrypt` answers. -/
theorem gcmdecIsGcmDecrypt : Obligations.GcmdecIsGcmDecrypt := by
  intro s hkeyv hivv hafits halimit hdfits hdlimit hblocks
  have hready : s.CallReady := ⟨hkeyv, hivv, ⟨hafits, halimit⟩, ⟨hdfits, hdlimit⟩, hblocks⟩
  refine ⟨fun p hplain => ?_, fun hfail => ?_⟩
  · exact ⟨length_plaintext hplain, gcmdecBody s, hready.exec_gcmdec,
      sameButWorking_gcmdecBody_plaintext (s := s) hplain, bufByte_obuf_gcmdecBody hplain⟩
  · exact ⟨gcmdecBody s, hready.exec_gcmdec, sameButWorking_gcmdecBody_failure (s := s) hfail⟩

/-- Where `GCMDEC` reports success, `GcmDecrypt` has answered a plaintext (spec 46_gcm.md R196). -/
theorem decryption_of_gcmdecBody_ok {s : State} (herr : (gcmdecBody s).err = 0x00#8) :
    ∃ p, s.decryption = .plaintext p := by
  cases h : s.decryption with
  | plaintext p => exact ⟨p, rfl⟩
  | authenticationFailure =>
    have hauth : (gcmdecBody s).err = 0x05#8 :=
      congrArg (·.err) (sameButWorking_gcmdecBody_failure h)
    rw [hauth] at herr
    cases herr

/-- Settles O39: the tests do not look at `TAG`, and the text has one tag alone. -/
theorem anyOtherTagIsRejected : Obligations.AnyOtherTagIsRejected := by
  intro s t tag ht herr hne
  obtain ⟨hready, rfl⟩ := exec_gcmdec_ok ht herr
  obtain ⟨p, hplain⟩ := decryption_of_gcmdecBody_ok herr
  have hfail : (s.setTag tag).decryption = .authenticationFailure := gcmDecrypt_other_tag hplain hne
  have hframe := sameButWorking_gcmdecBody_failure hfail
  exact ⟨gcmdecBody (s.setTag tag), (hready.setTag tag).exec_gcmdec, congrArg (·.err) hframe,
    congrArg (·.tag) hframe, congrArg (·.obuf) hframe, congrArg (·.res) hframe⟩

/-! ### The way back -/

/-- A state in which the host has written a key and an IV and put a text into `IBUF`. -/
def State.reloaded (s : State) (key : Block) (iv : IvWord) (m : Memory) : State :=
  { s with key := key, keyv := true, iv := iv, ivv := true, ibuf := m }

@[simp] theorem State.reloaded_key (s : State) (key : Block) (iv : IvWord) (m : Memory) :
    (s.reloaded key iv m).key = key := rfl
@[simp] theorem State.reloaded_iv (s : State) (key : Block) (iv : IvWord) (m : Memory) :
    (s.reloaded key iv m).iv = iv := rfl
@[simp] theorem State.reloaded_alen (s : State) (key : Block) (iv : IvWord) (m : Memory) :
    (s.reloaded key iv m).alen = s.alen := rfl
@[simp] theorem State.reloaded_dlen (s : State) (key : Block) (iv : IvWord) (m : Memory) :
    (s.reloaded key iv m).dlen = s.dlen := rfl
@[simp] theorem State.reloaded_tag (s : State) (key : Block) (iv : IvWord) (m : Memory) :
    (s.reloaded key iv m).tag = s.tag := rfl
@[simp] theorem State.reloaded_abufSize (s : State) (key : Block) (iv : IvWord) (m : Memory) :
    (s.reloaded key iv m).abufSize = s.abufSize := rfl
@[simp] theorem State.reloaded_dbufSize (s : State) (key : Block) (iv : IvWord) (m : Memory) :
    (s.reloaded key iv m).dbufSize = s.dbufSize := rfl
@[simp] theorem State.reloaded_aad (s : State) (key : Block) (iv : IvWord) (m : Memory) :
    (s.reloaded key iv m).aad = s.aad := rfl

/-- A text is given by its length and the bytes of `IBUF` below it. -/
theorem State.text_eq {s : State} {d : List Byte} (hlen : d.length = s.dlen.toNat)
    (hbytes : ∀ k < s.dlen.toNat, s.bufByte .ibuf k = d.getD k 0) : s.text = d := by
  refine List.ext_getElem (s.length_text.trans hlen.symm) fun k hk hkd => ?_
  rw [← List.getD_eq_getElem _ 0 hk, ← List.getD_eq_getElem _ 0 hkd,
    s.getD_text (hlen ▸ hkd), hbytes k (hlen ▸ hkd)]

/-- After `GCMENC` the conditions of a call hold again once the key and the IV are written. -/
theorem State.CallReady.reloaded_gcmencBody {s : State} (h : s.CallReady) (key : Block)
    (iv : IvWord) (m : Memory) : ((gcmencBody s).reloaded key iv m).CallReady := by
  obtain ⟨halen, hdlen, -⟩ := gcmencBody_kept s
  obtain ⟨habuf, hdbuf⟩ := gcmencBody_capacities s
  refine ⟨rfl, rfl, ?_, ?_, ?_⟩
  · simpa [halen, habuf] using h.aad
  · simpa [hdlen, hdbuf] using h.text
  · simpa [hdlen] using h.blocks

/-- With the ciphertext of `GCMENC` in `IBUF`, decryption answers the text that `GCMENC` read. -/
theorem State.decryption_reloaded_gcmencBody {s : State} {m : Memory}
    (hmoved : ∀ k < s.dlen.toNat,
      ((gcmencBody s).reloaded s.key s.iv m).bufByte .ibuf k = (gcmencBody s).bufByte .obuf k) :
    ((gcmencBody s).reloaded s.key s.iv m).decryption = .plaintext s.text := by
  have htext : ((gcmencBody s).reloaded s.key s.iv m).text =
      (gcmEncrypt s.key s.iv s.aad s.text).1 := by
    refine State.text_eq ?_ fun k hk => ?_
    · rw [length_ciphertext, State.reloaded_dlen, gcmencBody_dlen]
    · rw [State.reloaded_dlen, gcmencBody_dlen] at hk
      rw [hmoved k hk, bufByte_obuf_gcmencBody, if_pos hk]
  rw [State.decryption, htext, State.reloaded_key, State.reloaded_iv, State.reloaded_aad,
    State.reloaded_tag, gcmencBody_aad, gcmencBody_tag]
  exact decryptionUndoesEncryption s.key s.iv s.aad s.text

/-- Settles O59: the tests pass again, and the host has moved the ciphertext of which `TAG` is the
tag. -/
theorem gcmdecRestoresWhatGcmencHid : Obligations.GcmdecRestoresWhatGcmencHid := by
  intro s t u ht herr hu hmoved
  obtain ⟨hready, rfl⟩ := exec_gcmenc_ok ht herr
  obtain ⟨m, rfl⟩ : ∃ m, u = (gcmencBody s).reloaded s.key s.iv m := ⟨u.ibuf, hu⟩
  have hplain := State.decryption_reloaded_gcmencBody hmoved
  refine ⟨gcmdecBody _, (hready.reloaded_gcmencBody s.key s.iv m).exec_gcmdec,
    congrArg (·.err) (sameButWorking_gcmdecBody_plaintext hplain), fun k hk => ?_⟩
  rw [bufByte_obuf_gcmdecBody hplain, State.reloaded_dlen, gcmencBody_dlen, if_pos hk,
    s.getD_text hk]

end Sys2Proof.Machine
end

section
/-! PROOFS. The outcomes of commands and transactions: which test refuses a command, what a refusal and
a failed tag leave, and which transactions are bus errors (spec 60_exceptions.md). -/

namespace Sys2Proof.Machine

/-! ### Refusals and their codes -/

theorem State.textBad_iff {s : State} : s.TextBad ↔ s.textTooLong = true :=
  State.textTooLong_iff.symm

theorem State.aadBad_iff {s : State} : s.AadBad ↔ s.aadTooLong = true :=
  State.aadTooLong_iff.symm

/-- A command that passes its tests breaks none of the conditions that the tables list for it (spec
60_exceptions.md R213 to R215). -/
theorem conditions_of_passes {i : Instr} {s : State}
    (h : firstFailure (commandTests s i) = none) :
    ¬ s.Lacks i ∧ ¬ s.LengthBad i ∧ ¬ s.CounterBad i := by
  have hpass := firstFailure_eq_none.1 h
  cases i with
  | gfmul | clr => exact ⟨id, id, id⟩
  | keyexp | aesenc =>
    simpa [commandTests, State.Lacks, State.LengthBad, State.CounterBad] using hpass
  | rkrd n =>
    have hflag := hpass (s.lacksSchedule, .precond) (by simp [commandTests])
    simpa [State.Lacks, State.LengthBad, State.CounterBad] using hflag
  | ghash =>
    simpa [commandTests, State.Lacks, State.LengthBad, State.CounterBad, State.textBad_iff,
      State.textRagged_eq_false] using hpass
  | ctrxor | gcmenc | gcmdec =>
    simpa [commandTests, State.gcmTests, State.Lacks, State.LengthBad, State.CounterBad,
      State.aadBad_iff, State.textBad_iff, State.counterExhausted_eq_false] using hpass

/-- Settles O28: a refusal says which condition is the first to fail, and a command that passes its
tests fails none. -/
theorem refusalsComeInFixedOrder : Obligations.RefusalsComeInFixedOrder := by
  intro i s hwf
  rw [exec_eq]
  cases hf : firstFailure (commandTests s i) with
  | some e =>
    have hrefuse := runCommand_refuse (commandBody i) s hf
    rcases refusal_cases hf with ⟨-, hbad⟩ | ⟨rfl, -, hlacks⟩ | ⟨rfl, hflags, hlength⟩ |
      ⟨rfl, hflags, hlengths, hctr⟩
    · exact absurd hwf hbad
    · exact ⟨fun _ => hrefuse, (absurd hlacks ·), (absurd hlacks ·), (absurd hlacks ·)⟩
    · exact ⟨(absurd · hflags), fun _ _ => hrefuse, fun _ => (absurd hlength ·),
        fun _ => (absurd hlength ·)⟩
    · exact ⟨(absurd · hflags), fun _ => (absurd · hlengths), fun _ _ _ => hrefuse,
        fun _ _ => (absurd hctr ·)⟩
  | none =>
    obtain ⟨hflags, hlengths, hctr⟩ := conditions_of_passes hf
    exact ⟨(absurd · hflags), fun _ => (absurd · hlengths), fun _ _ => (absurd · hctr),
      fun _ _ _ => ⟨_, runCommand_run _ s hf, commandBody_err i s⟩⟩

/-- A command that ends with neither of the two codes of a run was refused. -/
theorem exec_refused {i : Instr} {s t : State} (ht : exec i s = .next t) (hok : t.err ≠ 0x00#8)
    (hauth : t.err ≠ 0x05#8) :
    ∃ e, firstFailure (commandTests s i) = some e ∧ t = s.report e := by
  rcases exec_cases ht with hrefuse | ⟨-, rfl⟩
  · exact hrefuse
  · rcases commandBody_err i s with h | ⟨-, h⟩
    · exact absurd h hok
    · exact absurd h hauth

/-- Settles O29: with such a code the command was refused, and a refusal is a report. -/
theorem refusalChangesOnlyErr : Obligations.RefusalChangesOnlyErr := by
  intro i s t ht herr
  have hok : t.err ≠ 0x00#8 := fun h => by simp [h] at herr
  have hauth : t.err ≠ 0x05#8 := fun h => by simp [h] at herr
  obtain ⟨e, -, rfl⟩ := exec_refused ht hok hauth
  rfl

/-! ### The table of outcomes -/

theorem ok_mem_outcomes (i : Instr) : 0x00#8 ∈ outcomes i := by
  cases i <;> exact List.mem_cons_self

/-- A command that needs a flag can end with `ERR_PRECOND` (spec 60_exceptions.md R210, R213). -/
theorem precond_mem_outcomes {i : Instr} {s : State} (h : s.Lacks i) : 0x02#8 ∈ outcomes i := by
  cases i with
  | gfmul | ghash | clr => exact h.elim
  | keyexp | rkrd n | aesenc | ctrxor | gcmenc | gcmdec => simp [outcomes]

/-- A command with a bound on a length can end with `ERR_LENGTH` (spec 60_exceptions.md R210, R214). -/
theorem length_mem_outcomes {i : Instr} {s : State} (h : s.LengthBad i) : 0x03#8 ∈ outcomes i := by
  cases i with
  | keyexp | rkrd n | aesenc | gfmul | clr => exact h.elim
  | ghash | ctrxor | gcmenc | gcmdec => simp [outcomes]

/-- A command with a counter-mode pass can end with `ERR_CTR` (spec 60_exceptions.md R210, R215). -/
theorem ctr_mem_outcomes {i : Instr} {s : State} (h : s.CounterBad i) : 0x04#8 ∈ outcomes i := by
  cases i with
  | keyexp | rkrd n | aesenc | gfmul | ghash | clr => exact h.elim
  | ctrxor | gcmenc | gcmdec => simp [outcomes]

/-- Settles O30: a refusal names a condition that the command has, and a run completes or is a
`GCMDEC` with a wrong tag. -/
theorem outcomesAreTheTabledCodes : Obligations.OutcomesAreTheTabledCodes := by
  intro i s t hwf ht
  rcases exec_cases ht with ⟨e, he, rfl⟩ | ⟨-, rfl⟩
  · rcases refusal_cases he with ⟨-, hbad⟩ | ⟨rfl, -, hlacks⟩ | ⟨rfl, -, hlength⟩ |
      ⟨rfl, -, -, hctr⟩
    · exact absurd hwf hbad
    · exact precond_mem_outcomes hlacks
    · exact length_mem_outcomes hlength
    · exact ctr_mem_outcomes hctr
  · rcases commandBody_err i s with h | ⟨rfl, h⟩
    · exact h ▸ ok_mem_outcomes i
    · rw [h]; decide

/-! ### The counter bound -/

/-- A text that fits its buffer and has more than `2^32 - 2` blocks needs a large buffer (spec
60_exceptions.md R215). -/
theorem large_of_counterBad {i : Instr} {s : State} (hlengths : ¬ s.LengthBad i)
    (hctr : s.CounterBad i) : 68719476704 < s.dbufSize := by
  have hblocks : (s.dlen.toNat + 15) / 16 > 2 ^ 32 - 2 := by
    cases i with
    | ctrxor | gcmenc | gcmdec => exact hctr
    | keyexp | rkrd n | aesenc | gfmul | ghash | clr => exact hctr.elim
  have hfits : ¬ s.TextBad := by
    cases i with
    | ctrxor => exact hlengths
    | gcmenc | gcmdec => exact (not_or.1 hlengths).2
    | keyexp | rkrd n | aesenc | gfmul | ghash | clr => exact hctr.elim
  unfold State.TextBad at hfits
  omega

/-- Settles O31: only the refusal by the counter bound has this code, and it comes after the bounds on
the lengths. -/
theorem counterErrorNeedsALargeBuffer : Obligations.CounterErrorNeedsALargeBuffer := by
  intro i s t ht herr
  obtain ⟨e, he, rfl⟩ := exec_refused ht (by rw [herr]; decide) (by rw [herr]; decide)
  rcases refusal_cases he with ⟨rfl, -⟩ | ⟨rfl, -⟩ | ⟨rfl, -⟩ | ⟨rfl, -, hlengths, hctr⟩
  · cases herr
  · cases herr
  · cases herr
  · exact large_of_counterBad hlengths hctr

/-! ### A wrong tag -/

/-- The state in which a `GCMDEC` ends that finds a wrong tag (spec 46_gcm.md R196). -/
def State.rejected (s : State) : State :=
  ((s.withSchedule.withTagOf (keyExpand s.key) s.text).zeroKeys.releaseWorking).report .auth

/-- `GCMDEC` with `ERR = 0x05` has found a wrong tag (spec 60_exceptions.md R216). -/
theorem exec_gcmdec_auth {s t : State} (ht : exec .gcmdec s = .next t) (herr : t.err = 0x05#8) :
    t = s.rejected := by
  rcases exec_cases ht with ⟨e, he, rfl⟩ | ⟨-, rfl⟩
  · obtain ⟨-, hauth⟩ := refusal_code_ne he
    exact absurd herr hauth
  · simp only [commandBody, gcmdecBody_eq] at herr ⊢
    split at herr
    · exact absurd herr (by simp)
    · rename_i htag
      exact if_neg htag

/-- The tag that was offered is carried along and not read. -/
theorem State.rejected_setTag (s : State) (tag : Block) :
    (s.setTag tag).rejected = s.rejected.setTag tag := rfl

/-- Settles O38: both runs end in the rejected state, which carries the tag along. -/
theorem failedDecryptionRevealsNothing : Obligations.FailedDecryptionRevealsNothing := by
  intro s t t' tag ht herr ht' herr'
  calc t' = (s.setTag tag).rejected := exec_gcmdec_auth ht' herr'
    _ = s.rejected.setTag tag := s.rejected_setTag tag
    _ = t.setTag tag := by rw [exec_gcmdec_auth ht herr]

/-! ### Malformed transactions -/

/-- The numbers below 0x0B all name registers (spec 30_encoding.md R85). -/
theorem le_of_ofNumber_eq_none {r : Byte} (h : Reg.ofNumber r = none) : 0x0B ≤ r.toNat := by
  revert r; decide

/-- A malformed transaction is a bus error and changes no state (spec 60_exceptions.md R218). -/
theorem transact_malformed {s : State} {x : Transaction} (h : s.Malformed x) :
    transact x s = .next (s.respond .busError) := by
  cases x with
  | regWrite r v => exact transact_regWrite_readOnly h v s
  | regRead r => exact transact_regRead_none (ofNumber_eq_none h) s
  | bufWrite n a b => exact transact_bufWrite_none (target_eq_none.2 h) b
  | bufRead n a => exact transact_bufRead_none (target_eq_none.2 h)

/-- A transaction that is not malformed is accepted (spec 60_exceptions.md R218). -/
theorem transact_accepted {s : State} {x : Transaction} (h : ¬ s.Malformed x) :
    ∃ (u : State) (r : Response), transact x s = .next (u.respond r) ∧
      u.responses = s.responses ∧ r ≠ .busError := by
  rcases transaction_cases x with ⟨b, rfl⟩ | ⟨v, rfl⟩ | ⟨v, rfl⟩ | ⟨v, rfl⟩ | ⟨v, rfl⟩ | ⟨v, rfl⟩ |
    ⟨v, rfl⟩ | ⟨v, rfl⟩ | ⟨r, v, rfl, hr, -⟩ | ⟨r, rfl⟩ | ⟨n, a, b, rfl⟩ | ⟨n, a, rfl⟩
  · obtain ⟨u, hu, ht⟩ := transact_wrCmd_answers b s
    obtain ⟨-, hresponses⟩ := hu.envelope
    exact ⟨u, .ok, ht, hresponses, nofun⟩
  · exact ⟨_, .ok, transact_wrKey v s, rfl, nofun⟩
  · exact ⟨_, .ok, transact_wrIv v s, rfl, nofun⟩
  · exact ⟨_, .ok, transact_wrAlen v s, rfl, nofun⟩
  · exact ⟨_, .ok, transact_wrDlen v s, rfl, nofun⟩
  · exact ⟨_, .ok, transact_wrTag v s, rfl, nofun⟩
  · exact ⟨_, .ok, transact_wrOpa v s, rfl, nofun⟩
  · exact ⟨_, .ok, transact_wrOpb v s, rfl, nofun⟩
  · exact absurd hr h
  · cases hr : Reg.ofNumber r with
    | some g => exact ⟨s, _, transact_regRead hr s, rfl, nofun⟩
    | none => exact absurd (le_of_ofNumber_eq_none hr) h
  · cases ht : s.target n a with
    | some sp => exact ⟨_, .ok, transact_bufWrite ht b, by simp, nofun⟩
    | none => exact absurd (target_eq_none.1 ht) h
  · cases ht : s.target n a with
    | some sp => exact ⟨s, _, transact_bufRead ht, rfl, nofun⟩
    | none => exact absurd (target_eq_none.1 ht) h

/-- Settles O15: a malformed transaction only gets its response, and any other one is accepted. -/
theorem busErrorExactlyWhenMalformed : Obligations.BusErrorExactlyWhenMalformed := by
  refine fun s x => ⟨transact_malformed, fun h => ?_⟩
  obtain ⟨u, r, ht, hresponses, hr⟩ := transact_accepted h
  exact ⟨u.respond r, r, ht, congrArg (· ++ [r]) hresponses, hr⟩

end Sys2Proof.Machine
end

section
/-! PROOFS. Reset as an event, and why no step stops the machine (spec 70_reset_and_hazards.md). -/

namespace Sys2Proof.Machine

/-! ### Every step goes on -/

/-- The next event is none, a transaction or a reset, and each is answered with a next state (spec
70_reset_and_hazards.md R235). -/
theorem State.stepsOn (s : State) : s.StepsOn := by
  cases hq : s.inbox with
  | nil => exact ⟨s, step_idle hq⟩
  | cons e rest =>
    cases e with
    | transaction x =>
      obtain ⟨t, ht⟩ := transact_ends x (s.setInbox rest)
      exact ⟨t, (step_transaction hq).trans ht⟩
    | reset => exact ⟨_, step_reset hq⟩

/-- Settles O7, by the event the step takes; a command is its tests and its run, and both answer. -/
theorem everyStepGoesOn : Obligations.EveryStepGoesOn :=
  ⟨State.stepsOn, exec_ends⟩

/-! ### The reset event -/

/-- A reset gives the reset values again and keeps the capacities, the queue and the responses (spec
70_reset_and_hazards.md R230, assumption log 15). -/
theorem sameButWorking_afterReset (s : State) :
    SameButWorking
      { State.resetWith s.abufSize s.dbufSize with
        resets := s.resets + 1, inbox := s.inbox, responses := s.responses } s.afterReset := rfl

/-- After a reset no byte of any buffer is written. -/
theorem State.buf_afterReset (s : State) (sp : Space) : s.afterReset.buf sp = [] := by
  cases sp <;> rfl

/-- After a reset every buffer byte is the free value of the new index (spec 70_reset_and_hazards.md
R230, assumption log 4). -/
theorem State.bufByte_afterReset (s : State) (sp : Space) (a : Nat) :
    s.afterReset.bufByte sp a = Config.resetByte (s.resets + 1) sp a :=
  State.bufByte_unwritten (s.buf_afterReset sp) a

/-- Settles O18: the step takes the event off the queue and resets the core, after which no buffer byte
counts as written. -/
theorem resetEventClearsTheCore : Obligations.ResetEventClearsTheCore :=
  fun s rest hq =>
    ⟨(s.setInbox rest).afterReset, step_reset hq, sameButWorking_afterReset (s.setInbox rest),
      (s.setInbox rest).bufByte_afterReset⟩

end Sys2Proof.Machine
end
